-- ==== Sys2Proof/Word.lean ====
section
/-! DEFINITION. The value types of the machine (spec 00_scope.md R7, R8; 10_state.md R20): 32-bit unsigned words,
register numbers 0 to 31, and the counters the spec bounds by 2. -/

namespace Sys2Proof

/-- A register, a memory word, a PC value or an ALU result: a 32-bit unsigned value, arithmetic modulo 2^32 (R8). -/
abbrev Word := BitVec 32

/-- A register number, 0 to 31: every 5-bit field names a register (R20, R72). -/
abbrev RegIdx := Fin 32

/-- A pipeline counter, an integer 0 to 2: `dcnt` and `ecnt` (R30) and `fsup` (R32). -/
abbrev Count := Fin 3

end Sys2Proof
end

