-- ==== Sys2Proof/Syntax.lean ====
section
/-! DEFINITION. The decoded instruction record (spec 30_encoding.md R77), one constructor for each of the twelve
rows of the opcode table (R78). A field a format does not define has no place here, so it cannot be read. -/

namespace Sys2Proof

/-- The decoded instruction record of R77. `r1`, `r2`, `r3` are register numbers (R72); `shamt` is the 13-bit
unsigned shift amount (R74); `imm` is the 32-bit value `sext_18` of the immediate field (R73); `target` is the
28-bit absolute word address (R75). -/
inductive Instr where
  /-- opcode 0, R-format (R150) -/
  | add (r1 r2 r3 : RegIdx)
  /-- opcode 1, R-format (R151) -/
  | sub (r1 r2 r3 : RegIdx)
  /-- opcode 2, R-format (R152) -/
  | mul (r1 r2 r3 : RegIdx)
  /-- opcode 3, I-format (R155); `r2` is encoded and never read -/
  | movi (r1 r2 : RegIdx) (imm : Word)
  /-- opcode 4, I-format (R190) -/
  | jeq (r1 r2 : RegIdx) (imm : Word)
  /-- opcode 5, R-format (R153) -/
  | and (r1 r2 r3 : RegIdx)
  /-- opcode 6, I-format (R156) -/
  | xori (r1 r2 : RegIdx) (imm : Word)
  /-- opcode 7, J-format (R193) -/
  | jmp (target : BitVec 28)
  /-- opcode 8, S-format (R157) -/
  | lsl (r1 r2 : RegIdx) (shamt : BitVec 13)
  /-- opcode 9, S-format (R158) -/
  | lsr (r1 r2 : RegIdx) (shamt : BitVec 13)
  /-- opcode 10, I-format (R180) -/
  | movr (r1 r2 : RegIdx) (imm : Word)
  /-- opcode 11, I-format (R184) -/
  | movm (r1 r2 : RegIdx) (imm : Word)
deriving DecidableEq, Repr

end Sys2Proof
end

