-- ==== Sys2Proof/WellFormed.lean ====
section
/-! DEFINITION. Which instruction records are legal field combinations (spec 30_encoding.md R76, R77). Register
numbers, shift amounts and jump targets are in range by their types; the immediate is the one field with a check. -/

namespace Sys2Proof

/-- `imm` is the sign extension of an 18-bit field, that is a signed value in -131072 to 131071 (R73). -/
def immInRange (imm : Word) : Bool :=
  imm == (imm.setWidth 18).signExtend 32

/-- A legal field combination: the encoder "is not defined on out-of-range fields" (R76), and only the immediate can
be out of range here. -/
def Instr.wellFormed : Instr → Bool
  | .add _ _ _ => true
  | .sub _ _ _ => true
  | .mul _ _ _ => true
  | .movi _ _ imm => immInRange imm
  | .jeq _ _ imm => immInRange imm
  | .and _ _ _ => true
  | .xori _ _ imm => immInRange imm
  | .jmp _ => true
  | .lsl _ _ _ => true
  | .lsr _ _ _ => true
  | .movr _ _ imm => immInRange imm
  | .movm _ _ imm => immInRange imm

end Sys2Proof
end

