-- ==== Sys2Proof/Decode.lean ====
section
/-! DEFINITION. The instruction codec: the field extractors, the decoder of the Decode stage (spec 30_encoding.md
R71 to R80) and the encoder that defines the program image (R76). -/

namespace Sys2Proof

/-! ### Fields of an instruction word (R71 to R75) -/

/-- `w[31:28]`, which alone selects the instruction (R78). -/
def fieldOp (w : Word) : BitVec 4 := w.extractLsb' 28 4

/-- `r1 = w[27:23]` (R72). -/
def fieldR1 (w : Word) : RegIdx := (w.extractLsb' 23 5).toFin

/-- `r2 = w[22:18]` (R72). -/
def fieldR2 (w : Word) : RegIdx := (w.extractLsb' 18 5).toFin

/-- `r3 = w[17:13]` (R72). -/
def fieldR3 (w : Word) : RegIdx := (w.extractLsb' 13 5).toFin

/-- The I-format immediate, `sext_18(w[17:0])` (R73). -/
def fieldImm (w : Word) : Word := (w.extractLsb' 0 18).signExtend 32

/-- The S-format shift amount, `w[12:0]`, unsigned (R74). -/
def fieldShamt (w : Word) : BitVec 13 := w.extractLsb' 0 13

/-- The J-format target, `w[27:0]`, unsigned (R75). -/
def fieldTarget (w : Word) : BitVec 28 := w.extractLsb' 0 28

/-! ### The decoder -/

/-- Why a word is not an instruction. -/
inductive DecodeError where
  /-- The opcode field holds 12, 13, 14 or 15 (R79). -/
  | invalidOpcode (opcode : BitVec 4)
deriving DecidableEq, Repr

/-- `decode(w)` of R77, by the opcode map of R78. Bits a format does not define are ignored (R80). -/
def decode (w : Word) : Except DecodeError Instr :=
  match (fieldOp w).toNat with
  | 0 => .ok (.add (fieldR1 w) (fieldR2 w) (fieldR3 w))
  | 1 => .ok (.sub (fieldR1 w) (fieldR2 w) (fieldR3 w))
  | 2 => .ok (.mul (fieldR1 w) (fieldR2 w) (fieldR3 w))
  | 3 => .ok (.movi (fieldR1 w) (fieldR2 w) (fieldImm w))
  | 4 => .ok (.jeq (fieldR1 w) (fieldR2 w) (fieldImm w))
  | 5 => .ok (.and (fieldR1 w) (fieldR2 w) (fieldR3 w))
  | 6 => .ok (.xori (fieldR1 w) (fieldR2 w) (fieldImm w))
  | 7 => .ok (.jmp (fieldTarget w))
  | 8 => .ok (.lsl (fieldR1 w) (fieldR2 w) (fieldShamt w))
  | 9 => .ok (.lsr (fieldR1 w) (fieldR2 w) (fieldShamt w))
  | 10 => .ok (.movr (fieldR1 w) (fieldR2 w) (fieldImm w))
  | 11 => .ok (.movm (fieldR1 w) (fieldR2 w) (fieldImm w))
  | _ => .error (.invalidOpcode (fieldOp w))

/-! ### The encoder -/

/-- The opcode number of each instruction (R78). -/
def Instr.opcode : Instr → BitVec 4
  | .add _ _ _ => 0
  | .sub _ _ _ => 1
  | .mul _ _ _ => 2
  | .movi _ _ _ => 3
  | .jeq _ _ _ => 4
  | .and _ _ _ => 5
  | .xori _ _ _ => 6
  | .jmp _ => 7
  | .lsl _ _ _ => 8
  | .lsr _ _ _ => 9
  | .movr _ _ _ => 10
  | .movm _ _ _ => 11

/-- A 5-bit register field. -/
def regField (r : RegIdx) : BitVec 5 := BitVec.ofFin r

/-- `encode_R`: `op r1 r2 r3` and 13 zero bits (R76). -/
def encodeR (op : BitVec 4) (r1 r2 r3 : RegIdx) : Word :=
  op ++ regField r1 ++ regField r2 ++ regField r3 ++ 0#13

/-- `encode_S`: `op r1 r2`, 5 zero bits, the shift amount (R76). -/
def encodeS (op : BitVec 4) (r1 r2 : RegIdx) (shamt : BitVec 13) : Word :=
  op ++ regField r1 ++ regField r2 ++ 0#5 ++ shamt

/-- `encode_I`: `op r1 r2` and the immediate modulo 2^18 (R76). The spec does not define the encoder on an immediate
outside -131072 to 131071; here it keeps the low 18 bits (DESIGN CHOICE, assumption 15). -/
def encodeI (op : BitVec 4) (r1 r2 : RegIdx) (imm : Word) : Word :=
  op ++ regField r1 ++ regField r2 ++ imm.setWidth 18

/-- `encode_J`: `op` and the 28-bit target (R76). -/
def encodeJ (op : BitVec 4) (target : BitVec 28) : Word :=
  op ++ target

/-- The word of a well-formed instruction (R76): every bit its format does not define is zero. "The encoder is not
defined on out-of-range fields" (R76): what it gives for a record that is not well-formed is the model's own (DESIGN
CHOICE, assumption 15), and no program is loaded from one (`State.loadProgram`). -/
def encode : Instr → Word
  | .add r1 r2 r3 => encodeR 0 r1 r2 r3
  | .sub r1 r2 r3 => encodeR 1 r1 r2 r3
  | .mul r1 r2 r3 => encodeR 2 r1 r2 r3
  | .movi r1 r2 imm => encodeI 3 r1 r2 imm
  | .jeq r1 r2 imm => encodeI 4 r1 r2 imm
  | .and r1 r2 r3 => encodeR 5 r1 r2 r3
  | .xori r1 r2 imm => encodeI 6 r1 r2 imm
  | .jmp target => encodeJ 7 target
  | .lsl r1 r2 shamt => encodeS 8 r1 r2 shamt
  | .lsr r1 r2 shamt => encodeS 9 r1 r2 shamt
  | .movr r1 r2 imm => encodeI 10 r1 r2 imm
  | .movm r1 r2 imm => encodeI 11 r1 r2 imm

/-! ### Words numbered as the opcode table numbers them -/

/-- The 32-bit word whose low `nbits` bits are those of `w` and whose other bits are zero. Every instruction is one
32-bit word (R70), stored whole at one address (R51), so no byte order enters (R57). -/
def tableWord (nbits w : Nat) : Word := BitVec.ofNat 32 (w % 2 ^ nbits)

/-- The instruction the decoder reads from a word numbered as spec/opcode_table.json numbers it. -/
def decodeTableWord (nbits w : Nat) : Option Instr :=
  (decode (tableWord nbits w)).toOption

end Sys2Proof
end

