-- ==== Sys2Proof/Config.lean ====
section
/-! DEFINITION. The fixed implementation parameters of spec 00_scope.md R5. The spec leaves no value open (R5, and
93_implementation_defined.md), so there is no free value here. -/

namespace Sys2Proof.Config

/-- `MEMWORDS`: the memory holds 2048 words, at word addresses 0 to 2047 (R5, R37). -/
abbrev memWords : Nat := 2048

/-- `NREG`: 32 general registers (R5, R20). -/
abbrev nreg : Nat := 32

/-- `DEC_LAT`: the decode latency, 2 cycles (R5, R128). -/
abbrev decLat : Count := 2

/-- `EX_LAT`: the execute latency, 2 cycles (R5, R109). -/
abbrev exLat : Count := 2

/-- `FETCH_SUPPRESS`: a taken branch suppresses 2 fetches (R5, R116). -/
abbrev fetchSuppress : Count := 2

/-- The source line length of the front-end, in bytes (R5, R97). -/
abbrev lineBytes : Nat := 128

end Sys2Proof.Config
end

