-- ==== Sys2Proof/Machine/State.lean ====
section
/-! DEFINITION. The state of the pipeline core as plain data (spec 10_state.md R20 to R39), its fault records
(60_exceptions.md R200 to R205) and the state right after reset (R39, 70_reset_and_hazards.md R230, R231). -/

namespace Sys2Proof.Machine

/-! ### Stage latches (R30). A latch is `none` when empty; its fields exist only while it is occupied. -/

/-- The fields of an occupied IF latch: the raw word and the word address it was fetched from. -/
structure IfLatch where
  word : Word
  ia : Word
deriving DecidableEq, Repr

/-- The fields of an occupied ID latch; `dcnt` is the decode counter, 0 to 2. -/
structure IdLatch where
  word : Word
  ia : Word
  dcnt : Count
deriving DecidableEq, Repr

/-- The fields of an occupied EX latch; `ins` is the decoded record and `ecnt` the execute counter, 0 to 2. -/
structure ExLatch where
  word : Word
  ia : Word
  ins : Instr
  ecnt : Count
deriving DecidableEq, Repr

/-- The fields of an occupied MEM latch; `alu` is none for JEQ and JMP (R112). -/
structure MemLatch where
  word : Word
  ia : Word
  ins : Instr
  alu : Option Word
deriving DecidableEq, Repr

/-- The fields of an occupied WB latch; `mdr` is the memory-result field, present for MOVR only. -/
structure WbLatch where
  word : Word
  ia : Word
  ins : Instr
  alu : Option Word
  mdr : Option Word
deriving DecidableEq, Repr

/-! ### Memory (R37, R50) -/

/-- The word memory: (word address, word) pairs in one canonical form (`Memory.wf`). The addressable unit is the
32-bit word (R51), so a cell holds a word and no byte order exists (R57; DEDUCED, assumption 4). -/
abbrev Memory := List (Nat × Word)

/-- What an unlisted address reads as: memory is "fully zeroed" at creation (R39, R231). -/
abbrev Memory.unlisted : Word := 0

/-- The canonical form: addresses strictly rising, all below 2048, and no entry that an unlisted address would read
the same as. -/
abbrev Memory.wf (m : Memory) : Prop :=
  m.Pairwise (fun c d => c.1 < d.1) ∧ ∀ c ∈ m, c.1 < Config.memWords ∧ c.2 ≠ Memory.unlisted

/-! ### Faults and status -/

/-- The five pipeline stages, as fault records name them (R205). -/
inductive StageName where
  | fetch | decode | execute | memory | writeBack
deriving DecidableEq, Repr

/-- The record of a fault: its context, "cycle number, stage, opcode" (R200) and the fields of R205. The stage and
the code follow from the constructor (DESIGN CHOICE, assumption 7). -/
inductive FaultRecord where
  /-- `FaultInvalidOpcode`, code 1, stage ID (R202): Decode met a word with opcode 12 to 15. -/
  | invalidOpcode (cycle : Nat) (opcode : BitVec 4) (word ia : Word)
  /-- `FaultMemOutOfBounds`, code 2, stage MEM (R201): a MOVR or MOVM address is 2048 or more. -/
  | memOutOfBounds (cycle : Nat) (opcode : BitVec 4) (address ia word : Word)
  /-- `FaultPcOutOfBounds`, code 3, stage EX (R203): a taken JEQ or a JMP target is 2048 or more. -/
  | pcOutOfBounds (cycle : Nat) (opcode : BitVec 4) (target ia word : Word)
deriving DecidableEq, Repr

/-- The run status (R35). Only `running` has a next cycle. -/
inductive Status where
  | running
  | halted
  | faulted (record : FaultRecord)
deriving DecidableEq, Repr

/-- The stages in which a decoded instruction acts (R104, R106, R108). -/
inductive ActingStage where
  | writeBack | memory | execute
deriving DecidableEq, Repr

/-- Why a step, a stage or a meaning stops with a fault. -/
inductive Fault where
  /-- A stage raised the fault of this record (R200 to R205): MOVR and MOVM in the Memory stage, JEQ and JMP in the
  Execute stage, the Decode stage on an invalid opcode. `step` turns it into the faulted state of R204, and answers
  with it when asked for a cycle after that state. Safe: the spec names the fault and says the run ends there. -/
  | raised (record : FaultRecord)
  /-- Raised by `step` on a halted state, which has no next cycle (R35, R131). Safe: the spec gives no next state. -/
  | halted
deriving DecidableEq, Repr

/-- Why the model has no meaning to give. -/
inductive Refusal where
  /-- Raised by an arm of `exec` for an instruction that has no meaning yet. Safe; no arm answers it. -/
  | notModelled (mnemonic : String)
  /-- Raised by a stage asked to read a latch field that the instruction in the latch does not define (`alu` of a JEQ
  or JMP, `mdr` of anything but MOVR): such a field "must not be read" (R77, R112; 93_implementation_defined.md). No
  run reaches it. Safe: the model stops. -/
  | undefinedLatchField
deriving DecidableEq, Repr

/-! ### The state -/

/-- The whole state of the machine. -/
structure State where
  /-- The 32 general registers (R20); register 0 is read through `State.readReg`, which answers 0 (R21). -/
  regs : Vector Word 32
  /-- The program counter: the word address of the next instruction Fetch will read (R25). -/
  pc : Word
  /-- The unified word memory (R37, R50). -/
  memory : Memory
  /-- The IF latch (R30). -/
  ifLatch : Option IfLatch
  /-- The ID latch (R30). -/
  idLatch : Option IdLatch
  /-- The EX latch (R30). -/
  exLatch : Option ExLatch
  /-- The MEM latch (R30). -/
  memLatch : Option MemLatch
  /-- The WB latch (R30). -/
  wbLatch : Option WbLatch
  /-- The fetch-suppression counter, 0 to 2 (R32). -/
  fsup : Count
  /-- The number of cycles begun since reset, unbounded (R33). -/
  cycle : Nat
  /-- The instruction count, 0 to 2048, set by the loader (R34). -/
  icount : Fin 2049
  /-- The run status (R35). -/
  status : Status
  /-- THE MODEL'S OWN (DESIGN CHOICE, assumption 1): which of the three stages is acting on the working copy of R101. -/
  acting : ActingStage
deriving DecidableEq, Repr

/-- The three outcomes of a stage, a cycle, a meaning or a step. -/
abbrev Out := Host.Outcome State Fault Refusal

/-- The machine right after reset, with no program loaded (R39, R231 step 1): registers, memory, PC and counters 0,
latches empty, status `Running`. The loader then writes the image and `icount` (Machine/Loader.lean). -/
def State.reset : State where
  regs := Vector.replicate 32 0
  pc := 0
  memory := []
  ifLatch := none
  idLatch := none
  exLatch := none
  memLatch := none
  wbLatch := none
  fsup := 0
  cycle := 0
  icount := 0
  status := .running
  acting := .execute

end Sys2Proof.Machine
end

