-- ==== Sys2Proof/Machine/Ops.lean ====
section
/-! DEFINITION. The named operations over registers, memory and latches that every meaning and stage uses (spec
00_scope.md R9), raising a fault (60_exceptions.md R200 to R203) and entering the faulted state (R204). There is no
trap entry and no return from one (R209, R210): a fault ends the run. -/

namespace Sys2Proof.Machine

/-! ### Sequencing -/

/-- Runs `f` on the next state; a fault or a refusal ends the cycle at once, so no later stage runs (R102, R200). -/
def andThen (o : Out) (f : State → Out) : Out :=
  match o with
  | .next s => f s
  | .fault r => .fault r
  | .refused r => .refused r

/-! ### Registers (R21, R22) -/

/-- `x[i]`: register 0 reads 0 at all times, register i in 1 to 31 its stored value (R21). -/
def State.readReg (s : State) (i : RegIdx) : Word :=
  if i = 0 then 0 else s.regs.get i

/-- `x[i] <- v`: a write to register 0 changes nothing (R22). -/
def State.writeReg (s : State) (i : RegIdx) (v : Word) : State :=
  if i = 0 then s else { s with regs := s.regs.set i v }

/-! ### Memory (R52, R53) -/

/-- The word at a word address; an unlisted address reads 0 (R39). -/
def Memory.read : Memory → Nat → Word
  | [], _ => Memory.unlisted
  | (b, v) :: rest, a => if a = b then v else Memory.read rest a

/-- Sets the word at a word address, keeping the canonical form. -/
def Memory.write : Memory → Nat → Word → Memory
  | [], a, v => if v = Memory.unlisted then [] else [(a, v)]
  | (b, u) :: rest, a, v =>
    if a < b then
      if v = Memory.unlisted then (b, u) :: rest else (a, v) :: (b, u) :: rest
    else if a = b then
      if v = Memory.unlisted then rest else (a, v) :: rest
    else (b, u) :: Memory.write rest a v

/-- An address in 0 to 2047: anything else is out of bounds, so an address that wrapped below 0 is (R52, R196). -/
def inBounds (a : Word) : Bool := decide (a.toNat < Config.memWords)

/-- `MemRead(a, 1)`: the word at `a`, or none where it raises `FaultMemOutOfBounds` (R52). -/
def State.memRead (s : State) (a : Word) : Option Word :=
  if inBounds a then some (s.memory.read a.toNat) else none

/-- `MemWrite(a, 1, v)`: the state after the write, or none where it raises `FaultMemOutOfBounds`, and then nothing
is written (R53). -/
def State.memWrite (s : State) (a v : Word) : Option State :=
  if inBounds a then some { s with memory := s.memory.write a.toNat v } else none

/-! ### Counters -/

/-- One less, and 0 at 0 (R108, R118, R121; at 0 DESIGN CHOICE, assumption 5). -/
def countDown (c : Count) : Count := ⟨c.val - 1, by omega⟩

/-! ### Latch moves -/

/-- The stage that acts next on the working copy (R101). -/
def State.actAt (s : State) (stage : ActingStage) : State := { s with acting := stage }

/-- `S'.cycle <- S.cycle + 1` (R102). -/
def State.beginCycle (s : State) : State := { s with cycle := s.cycle + 1 }

/-- The instruction leaves EX for MEM, carrying its ALU result (R108). -/
def State.passToMem (s : State) (e : ExLatch) (alu : Option Word) : State :=
  { s with memLatch := some ⟨e.word, e.ia, e.ins, alu⟩, exLatch := none }

/-- The instruction leaves MEM for WB, carrying its memory result (R106). -/
def State.passToWb (s : State) (m : MemLatch) (mdr : Option Word) : State :=
  { s with wbLatch := some ⟨m.word, m.ia, m.ins, m.alu, mdr⟩, memLatch := none }

/-- `S'.WB <- Empty`: the instruction has retired (R103, R104). -/
def State.retire (s : State) : State := { s with wbLatch := none }

/-- A taken branch: the PC takes the target, IF and ID are flushed (R115) and two fetches are suppressed (R116).
Only IF and ID are flushed (R117). -/
def State.redirect (s : State) (t : Word) : State :=
  { s with pc := t, ifLatch := none, idLatch := none, fsup := Config.fetchSuppress }

/-! ### Faults -/

/-- `raise FaultMemOutOfBounds(a)` for the instruction in MEM (R201). -/
def State.raiseMem (s : State) (m : MemLatch) (a : Word) : Out :=
  .fault (.raised (.memOutOfBounds s.cycle m.ins.opcode a m.ia m.word))

/-- `raise FaultPcOutOfBounds(t)` for the instruction in EX (R203). -/
def State.raisePc (s : State) (e : ExLatch) (t : Word) : Out :=
  .fault (.raised (.pcOutOfBounds s.cycle e.ins.opcode t e.ia e.word))

/-- `raise FaultInvalidOpcode` for the word in ID (R202). -/
def State.raiseOpcode (s : State) (d : IdLatch) : Out :=
  .fault (.raised (.invalidOpcode s.cycle (fieldOp d.word) d.word d.ia))

/-- The code of a fault (R205, decision D32). -/
def FaultRecord.code : FaultRecord → Nat
  | .invalidOpcode .. => 1
  | .memOutOfBounds .. => 2
  | .pcOutOfBounds .. => 3

/-- The stage that raised a fault (R205). -/
def FaultRecord.stage : FaultRecord → StageName
  | .invalidOpcode .. => .decode
  | .memOutOfBounds .. => .memory
  | .pcOutOfBounds .. => .execute

/-- The number of the faulting cycle (R205). -/
def FaultRecord.cycle : FaultRecord → Nat
  | .invalidOpcode c .. => c
  | .memOutOfBounds c .. => c
  | .pcOutOfBounds c .. => c

/-- The faulted state: the state at the start of the faulting cycle, with only the status changed (R204). -/
def State.enterFault (s : State) (r : FaultRecord) : State := { s with status := .faulted r }

/-- What a cycle leaves, from the state at its start and what its stages answered: "the faulting cycle commits
nothing" (R204). -/
def commit (start : State) : Out → Out
  | .next s => .next s
  | .fault (.raised r) => .next (start.enterFault r)
  | .fault .halted => .fault .halted
  | .refused r => .refused r

end Sys2Proof.Machine
end

