-- ==== Sys2Proof/Machine/Operands.lean ====
section
/-! DEFINITION. Operand assembly: the one addressing mode, the two branch targets, and what each of the three acting
stages does with an instruction's latch, shared by all meanings (spec 40_pipeline.md R104 to R117;
42_load_store.md R181; 43_control_transfer.md R190, R193, R196). -/

namespace Sys2Proof.Machine

/-! ### Addresses -/

/-- `x[r2] + imm` modulo 2^32 (R181). -/
def State.effectiveAddress (s : State) (r2 : RegIdx) (imm : Word) : Word := s.readReg r2 + imm

/-- The JEQ target `ia + 1 + imm` modulo 2^32, from the JEQ's own address (R190, conflicts C1 and C2). -/
def jeqTarget (ia imm : Word) : Word := ia + 1 + imm

/-- The JMP target `pc[31:28] ++ target`, with the PC as it stands in the Execute stage (R193, R194). -/
def jmpTarget (pc : Word) (target : BitVec 28) : Word := pc.extractLsb' 28 4 ++ target

/-! ### The acting stage -/

/-- Does what the acting stage asks of an instruction, with the fields of that stage's latch; a stage whose latch is
empty does nothing (R104, R106, R108). -/
def State.inStage (s : State) (onExecute : ExLatch → Out) (onMemory : MemLatch → Out) (onWriteBack : WbLatch → Out) :
    Out :=
  match s.acting with
  | .execute =>
    match s.exLatch with
    | none => .next s
    | some e => onExecute e
  | .memory =>
    match s.memLatch with
    | none => .next s
    | some m => onMemory m
  | .writeBack =>
    match s.wbLatch with
    | none => .next s
    | some b => onWriteBack b

/-! ### Execute stage (R108, R110) -/

/-- Completes Execute with an ALU result and no redirect. -/
def State.finishAlu (s : State) (e : ExLatch) (alu : Word) : Out := .next (s.passToMem e (some alu))

/-- Completes Execute of a branch that is not taken: nothing is flushed (R113, R192). -/
def State.finishNotTaken (s : State) (e : ExLatch) : Out := .next (s.passToMem e none)

/-- Completes Execute of a taken branch to `t`, or raises `FaultPcOutOfBounds(t)` (R108, R196). -/
def State.finishTaken (s : State) (e : ExLatch) (t : Word) : Out :=
  if inBounds t then .next ((s.redirect t).passToMem e none) else s.raisePc e t

/-! ### Memory stage (R106) -/

/-- "All other opcodes pass through unchanged" (R106). -/
def State.memPass (s : State) (m : MemLatch) : Out := .next (s.passToWb m none)

/-- MOVR: `mdr <- MemRead(alu, 1)` (R182). -/
def State.memLoad (s : State) (m : MemLatch) : Out :=
  match m.alu with
  | none => .refused .undefinedLatchField
  | some a =>
    match s.memRead a with
    | none => s.raiseMem m a
    | some v => .next (s.passToWb m (some v))

/-- MOVM: `MemWrite(alu, 1, x[r1])`, with `r1` read in this stage (R185, R186). -/
def State.memStore (s : State) (m : MemLatch) (r1 : RegIdx) : Out :=
  match m.alu with
  | none => .refused .undefinedLatchField
  | some a =>
    match s.memWrite a (s.readReg r1) with
    | none => s.raiseMem m a
    | some s' => .next (s'.passToWb m none)

/-! ### Write-back stage (R104, R105) -/

/-- `WriteAlu`: `x[r1] <- alu`. -/
def State.wbAlu (s : State) (b : WbLatch) (r1 : RegIdx) : Out :=
  match b.alu with
  | none => .refused .undefinedLatchField
  | some v => .next (s.writeReg r1 v).retire

/-- `WriteMdr`: `x[r1] <- mdr`. -/
def State.wbMdr (s : State) (b : WbLatch) (r1 : RegIdx) : Out :=
  match b.mdr with
  | none => .refused .undefinedLatchField
  | some v => .next (s.writeReg r1 v).retire

/-- `NoWrite`: the instruction retires and writes no register. -/
def State.wbNone (s : State) : Out := .next s.retire

end Sys2Proof.Machine
end

