-- ==== Sys2Proof/Machine/Flags.lean ====
section
/-! DEFINITION. The hardware has no status flags, condition codes or predicate registers, and no instruction sets one
(spec 10_state.md R28). The one condition it computes is JEQ's equality comparator, whose "branch taken" mark lives
inside the Execute stage of one cycle and is not stored (40_pipeline.md R114). -/

namespace Sys2Proof.Machine

/-- JEQ's comparator: the two registers hold the same 32-bit value (R190). -/
def State.registersEqual (s : State) (r1 r2 : RegIdx) : Bool := s.readReg r1 == s.readReg r2

end Sys2Proof.Machine
end

