-- ==== Sys2Proof/Machine/Alu.lean ====
section
/-! DEFINITION. The integer ALU datapath and the meanings of ADD, SUB, MUL, AND, MOVI, XORI, LSL and LSR (spec
41_integer_alu.md R150 to R159). Each computes a 32-bit result in EX, passes through MEM unchanged and writes `r1` in
WB (R154). -/

namespace Sys2Proof.Machine

/-! ### The datapath -/

/-- Add modulo 2^32 (R150). -/
def aluAdd (x y : Word) : Word := x + y

/-- Subtract modulo 2^32, the second operand from the first (R151). -/
def aluSub (x y : Word) : Word := x - y

/-- The low 32 bits of the exact product (R152). -/
def aluMul (x y : Word) : Word := BitVec.ofNat 32 (x.toNat * y.toNat)

/-- Bitwise and (R153). -/
def aluAnd (x y : Word) : Word := x &&& y

/-- Bitwise exclusive or (R156). -/
def aluXor (x y : Word) : Word := x ^^^ y

/-- Logical shift left; an amount of 32 or more gives 0 (R157, decision D6; assumption 8). -/
def aluLsl (x : Word) (shamt : BitVec 13) : Word :=
  if shamt.toNat < 32 then BitVec.ofNat 32 (x.toNat * 2 ^ shamt.toNat) else 0

/-- Logical shift right; an amount of 32 or more gives 0 (R158, decisions D6 and D7; assumption 8). -/
def aluLsr (x : Word) (shamt : BitVec 13) : Word :=
  if shamt.toNat < 32 then BitVec.ofNat 32 (x.toNat / 2 ^ shamt.toNat) else 0

/-! ### The meanings -/

/-- ADD: `x[r1] <- x[r2] + x[r3]` (R150). -/
def execAdd (r1 r2 r3 : RegIdx) (s : State) : Out :=
  s.inStage (fun e => s.finishAlu e (aluAdd (s.readReg r2) (s.readReg r3))) s.memPass (s.wbAlu · r1)

/-- SUB: `x[r1] <- x[r2] - x[r3]` (R151). -/
def execSub (r1 r2 r3 : RegIdx) (s : State) : Out :=
  s.inStage (fun e => s.finishAlu e (aluSub (s.readReg r2) (s.readReg r3))) s.memPass (s.wbAlu · r1)

/-- MUL: `x[r1] <-` the low half of `x[r2] * x[r3]` (R152). -/
def execMul (r1 r2 r3 : RegIdx) (s : State) : Out :=
  s.inStage (fun e => s.finishAlu e (aluMul (s.readReg r2) (s.readReg r3))) s.memPass (s.wbAlu · r1)

/-- AND: `x[r1] <- x[r2] & x[r3]` (R153). -/
def execAnd (r1 r2 r3 : RegIdx) (s : State) : Out :=
  s.inStage (fun e => s.finishAlu e (aluAnd (s.readReg r2) (s.readReg r3))) s.memPass (s.wbAlu · r1)

/-- MOVI: `x[r1] <- imm`; the `r2` field is not read (R155, decision D5). -/
def execMovi (r1 _r2 : RegIdx) (imm : Word) (s : State) : Out :=
  s.inStage (fun e => s.finishAlu e imm) s.memPass (s.wbAlu · r1)

/-- XORI: `x[r1] <- x[r2] ^ imm` (R156). -/
def execXori (r1 r2 : RegIdx) (imm : Word) (s : State) : Out :=
  s.inStage (fun e => s.finishAlu e (aluXor (s.readReg r2) imm)) s.memPass (s.wbAlu · r1)

/-- LSL: `x[r1] <- x[r2] << shamt` (R157). -/
def execLsl (r1 r2 : RegIdx) (shamt : BitVec 13) (s : State) : Out :=
  s.inStage (fun e => s.finishAlu e (aluLsl (s.readReg r2) shamt)) s.memPass (s.wbAlu · r1)

/-- LSR: `x[r1] <- x[r2] >> shamt`, zeros entering at bit 31 (R158). -/
def execLsr (r1 r2 : RegIdx) (shamt : BitVec 13) (s : State) : Out :=
  s.inStage (fun e => s.finishAlu e (aluLsr (s.readReg r2) shamt)) s.memPass (s.wbAlu · r1)

end Sys2Proof.Machine
end

