-- ==== Sys2Proof/Machine/Control.lean ====
section
/-! DEFINITION. The meanings of JEQ and JMP (spec 43_control_transfer.md R190 to R199). Both resolve in EX and write
nothing in MEM or WB. -/

namespace Sys2Proof.Machine

/-- JEQ: if `x[r1]` equals `x[r2]`, go to the JEQ's own address + 1 + `imm` (R190); else nothing changes (R192). -/
def execJeq (r1 r2 : RegIdx) (imm : Word) (s : State) : Out :=
  s.inStage
    (fun e => if s.registersEqual r1 r2 then s.finishTaken e (jeqTarget e.ia imm) else s.finishNotTaken e)
    s.memPass (fun _ => s.wbNone)

/-- JMP: replace the low 28 bits of the PC (R193). -/
def execJmp (target : BitVec 28) (s : State) : Out :=
  s.inStage (fun e => s.finishTaken e (jmpTarget s.pc target)) s.memPass (fun _ => s.wbNone)

end Sys2Proof.Machine
end

