-- ==== Sys2Proof/Machine/LoadStore.lean ====
section
/-! DEFINITION. The meanings of MOVR (load) and MOVM (store) (spec 42_load_store.md R180 to R187). -/

namespace Sys2Proof.Machine

/-- MOVR: EX computes the effective address, MEM reads the word there, WB writes it to `r1` (R180). The read is made,
and can fault, for `r1 = 0` as well. -/
def execMovr (r1 r2 : RegIdx) (imm : Word) (s : State) : Out :=
  s.inStage (fun e => s.finishAlu e (s.effectiveAddress r2 imm)) s.memLoad (s.wbMdr · r1)

/-- MOVM: EX computes the effective address, MEM stores `x[r1]` there, WB writes nothing (R184). -/
def execMovm (r1 r2 : RegIdx) (imm : Word) (s : State) : Out :=
  s.inStage (fun e => s.finishAlu e (s.effectiveAddress r2 imm)) (s.memStore · r1) (fun _ => s.wbNone)

end Sys2Proof.Machine
end

