-- ==== Sys2Proof/Machine/Dispatch.lean ====
section
/-! DEFINITION. `exec i s`: what instruction `i` does in the stage that is acting on the working copy `s` (spec
40_pipeline.md R101, R104 to R110), one arm per row of the opcode table (30_encoding.md R78). -/

namespace Sys2Proof.Machine

def exec (i : Instr) (s : State) : Host.Outcome State Fault Refusal :=
  match i with
  | .add r1 r2 r3 => Sys2Proof.Machine.execAdd r1 r2 r3 s
  | .sub r1 r2 r3 => Sys2Proof.Machine.execSub r1 r2 r3 s
  | .mul r1 r2 r3 => Sys2Proof.Machine.execMul r1 r2 r3 s
  | .movi r1 r2 imm => Sys2Proof.Machine.execMovi r1 r2 imm s
  | .jeq r1 r2 imm => Sys2Proof.Machine.execJeq r1 r2 imm s
  | .and r1 r2 r3 => Sys2Proof.Machine.execAnd r1 r2 r3 s
  | .xori r1 r2 imm => Sys2Proof.Machine.execXori r1 r2 imm s
  | .jmp target => Sys2Proof.Machine.execJmp target s
  | .lsl r1 r2 shamt => Sys2Proof.Machine.execLsl r1 r2 shamt s
  | .lsr r1 r2 shamt => Sys2Proof.Machine.execLsr r1 r2 shamt s
  | .movr r1 r2 imm => Sys2Proof.Machine.execMovr r1 r2 imm s
  | .movm r1 r2 imm => Sys2Proof.Machine.execMovm r1 r2 imm s

end Sys2Proof.Machine
end

