-- ==== Sys2Proof/Machine/Pipeline.lean ====
section
/-! DEFINITION. The stage engine: the stages of one cycle in their fixed order, the drain check, and the cycle
function (spec 40_pipeline.md R100 to R133). -/

namespace Sys2Proof.Machine

/-- Write-back stage (R104): the instruction in WB does its write-back action. -/
def writeBackStage (s : State) : Out :=
  match s.wbLatch with
  | none => .next (s.actAt .writeBack)
  | some b => exec b.ins (s.actAt .writeBack)

/-- Memory stage (R106): the instruction in MEM makes its access and moves to WB. -/
def memoryStage (s : State) : Out :=
  match s.memLatch with
  | none => .next (s.actAt .memory)
  | some m => exec m.ins (s.actAt .memory)

/-- The EX latch with its counter one lower (R108). -/
def State.countExecute (s : State) (e : ExLatch) : State :=
  { s with exLatch := some { e with ecnt := countDown e.ecnt } }

/-- Execute stage (R108): count down, and complete the instruction when the counter reaches zero. -/
def executeStage (s : State) : Out :=
  match s.exLatch with
  | none => .next (s.actAt .execute)
  | some e =>
    if countDown e.ecnt = 0 then exec e.ins ((s.countExecute e).actAt .execute)
    else .next ((s.countExecute e).actAt .execute)

/-- The ID latch with its counter one lower; a waiting counter stays at zero (R118, R120). -/
def State.countDecode (s : State) (d : IdLatch) : State :=
  { s with idLatch := some { d with dcnt := countDown d.dcnt } }

/-- The instruction leaves ID for EX, decoded, with its execute counter set (R118). -/
def State.passToEx (s : State) (d : IdLatch) (ins : Instr) : State :=
  { s with exLatch := some ⟨d.word, d.ia, ins, Config.exLat⟩, idLatch := none }

/-- Decode stage (R118): count down; when the counter is zero and EX is empty, decode the word held in ID (R119) and
move it on, or raise `FaultInvalidOpcode` (R202). When EX is occupied it waits (R120). -/
def decodeStage (s : State) : Out :=
  match s.idLatch with
  | none => .next s
  | some d =>
    if countDown d.dcnt = 0 ∧ s.exLatch = none then
      match decode d.word with
      | .ok ins => .next (s.passToEx d ins)
      | .error _ => s.raiseOpcode d
    else .next (s.countDecode d)

/-- One fetch: the word at the PC and its address enter IF, and the PC advances by 1 (R123). -/
def State.fetchWord (s : State) : State :=
  { s with ifLatch := some ⟨s.memory.read s.pc.toNat, s.pc⟩, pc := s.pc + 1 }

/-- Fetch stage (R121): a suppressed fetch counts down; otherwise fetch when IF is empty and the PC is below
`icount`. -/
def fetchStage (s : State) : State :=
  if s.fsup ≠ 0 then { s with fsup := countDown s.fsup }
  else if s.ifLatch = none ∧ s.pc.toNat < s.icount.val then s.fetchWord
  else s

/-- IF-to-ID transfer (R125), never in the first cycle (R126). -/
def transferStage (s : State) : State :=
  match s.ifLatch with
  | none => s
  | some f =>
    if 1 < s.cycle ∧ s.idLatch = none then
      { s with idLatch := some ⟨f.word, f.ia, Config.decLat⟩, ifLatch := none }
    else s

/-- All five latches empty, the PC at or past `icount`, no suppression pending (R130). -/
abbrev State.drained (s : State) : Prop :=
  s.ifLatch = none ∧ s.idLatch = none ∧ s.exLatch = none ∧ s.memLatch = none ∧ s.wbLatch = none ∧
    s.icount.val ≤ s.pc.toNat ∧ s.fsup = 0

/-- Drain check (R130). -/
def drainCheck (s : State) : State :=
  if s.drained then { s with status := .halted } else s

/-- `Cycle(S)` (R102): Write-back, Memory, Execute, Decode, Fetch, transfer, drain check, on one working copy. -/
def runCycle (s : State) : Out :=
  andThen (writeBackStage s.beginCycle) fun s1 =>
  andThen (memoryStage s1) fun s2 =>
  andThen (executeStage s2) fun s3 =>
  andThen (decodeStage s3) fun s4 =>
  .next (drainCheck (transferStage (fetchStage s4)))

/-! ### An instruction about to run -/

/-- The address a placed word is fetched from: the PC, or 0 where the PC is past the end of memory. -/
def State.placeAddress (s : State) : Word := if inBounds s.pc then s.pc else 0

/-- `s` with the pipeline drained and a one-word program at the PC, the PC moved past it: what a load and one fetch
leave of memory, `icount` and PC. -/
def State.placeWord (s : State) (word : Word) : State :=
  { s with
    memory := s.memory.write s.placeAddress.toNat word
    icount := ⟨(s.placeAddress.toNat + 1) % 2049, Nat.mod_lt _ (by decide)⟩
    pc := s.placeAddress + 1
    ifLatch := none, idLatch := none, exLatch := none, memLatch := none, wbLatch := none
    fsup := 0, status := .running, acting := .execute }

/-- The cycles from a drained pipeline to the one after which a fetched word waits in ID for the last cycle of its
decoding: in cycle 1 the transfer waits one cycle more (R126, R127). -/
def State.decodeWait (s : State) : Nat := if s.cycle = 0 then 3 else 2

/-- `s` with `word` fetched at the PC and about to run: in EX with one cycle of its execute latency left, as the
machine's own cycles bring it there; a word that does not decode is in ID, about to be decoded. -/
def State.readyToRun (s : State) (word : Word) : State :=
  match decode word with
  | .ok ins =>
    { s.placeWord word with
      exLatch := some ⟨word, s.placeAddress, ins, 1⟩, cycle := s.cycle + s.decodeWait + 2 }
  | .error _ =>
    { s.placeWord word with
      idLatch := some ⟨word, s.placeAddress, 1⟩, cycle := s.cycle + s.decodeWait }

end Sys2Proof.Machine
end

