-- ==== Sys2Proof/Machine/Step.lean ====
section
/-! DEFINITION. One step of the machine is one clock cycle, one call of `Cycle` (spec 00_scope.md R10;
40_pipeline.md R102; decision D1; assumption 12). -/

namespace Sys2Proof.Machine

/-- One cycle from a running state; a faulting cycle leaves the faulted state of R204. A state that is halted or
faulted has no next cycle (R35). -/
def step (s : State) : Host.Outcome State Fault Refusal :=
  match s.status with
  | .running => commit s (runCycle s)
  | .halted => .fault .halted
  | .faulted r => .fault (.raised r)

/-- `s` with the word whose bits are `w` placed so that the very next step runs it (assumption 2). -/
def State.withFetchWord (s : State) (nbits w : Nat) : State :=
  s.readyToRun (tableWord nbits w)

end Sys2Proof.Machine
end

