-- ==== Sys2Proof/Machine/Assembler.lean ====
section
/-! DEFINITION. The program image of a source text: the front-end's output contract (spec 30_encoding.md R95 to R99,
decision D19; DESIGN CHOICE, assumption 9). The hardware does not run it; it fixes what the loader is given. -/

namespace Sys2Proof.Machine

/-! ### Lines and tokens (R95, R97) -/

/-- Splits a text at every character that `sep` accepts. -/
def splitAt (sep : Char → Bool) : List Char → List (List Char)
  | [] => [[]]
  | c :: cs =>
    if sep c then [] :: splitAt sep cs
    else
      match splitAt sep cs with
      | [] => [[c]]
      | l :: ls => (c :: l) :: ls

/-- The line up to its comment, which runs from a semicolon to the end of the line (R95). -/
def dropComment : List Char → List Char
  | [] => []
  | c :: cs => if c = ';' then [] else c :: dropComment cs

/-- The tokens of a line: separated by one or more spaces or tabs, no commas (R97). The spec does not speak of blanks
before the first token or after the last, nor of a line of blanks only: here they are dropped, so such a line is
blank (DESIGN CHOICE, assumption 9). -/
def lineTokens (line : List Char) : List (List Char) :=
  (splitAt (fun c => c = ' ' || c = '\t') (dropComment line)).filter (fun t => !t.isEmpty)

/-- The length of a line in bytes (R97). -/
def byteLength : List Char → Nat
  | [] => 0
  | c :: cs => c.utf8Size + byteLength cs

/-! ### Numbers and operands (R96, R97) -/

/-- The value of one decimal digit. -/
def digitValue (c : Char) : Option Nat :=
  if 48 ≤ c.toNat ∧ c.toNat ≤ 57 then some (c.toNat - 48) else none

/-- Reads decimal digits onto `acc`; anything else is no number. -/
def digitsFrom (acc : Nat) : List Char → Option Nat
  | [] => some acc
  | c :: cs =>
    match digitValue c with
    | none => none
    | some d => digitsFrom (10 * acc + d) cs

/-- A decimal integer without a sign: at least one digit. -/
def parseNat (t : List Char) : Option Nat :=
  if t.isEmpty then none else digitsFrom 0 t

/-- `R<n>`, n decimal, 0 to 31, the prefix upper case (R97). -/
def parseReg : List Char → Option RegIdx
  | 'R' :: digits =>
    match parseNat digits with
    | none => none
    | some n => if h : n < 32 then some ⟨n, h⟩ else none
  | _ => none

/-- A decimal integer with an optional leading minus sign, -131072 to 131071 (R97), as its 32-bit value (R73). -/
def parseImm (t : List Char) : Option Word :=
  match t with
  | '-' :: digits =>
    match parseNat digits with
    | none => none
    | some n => if n ≤ 131072 then some (-(BitVec.ofNat 32 n)) else none
  | _ =>
    match parseNat t with
    | none => none
    | some n => if n ≤ 131071 then some (BitVec.ofNat 32 n) else none

/-- A decimal integer 0 to 8191 (R97). -/
def parseShamt (t : List Char) : Option (BitVec 13) :=
  match parseNat t with
  | none => none
  | some n => if n ≤ 8191 then some (BitVec.ofNat 13 n) else none

/-- A decimal integer 0 to 2^28-1 (R97). -/
def parseTarget (t : List Char) : Option (BitVec 28) :=
  match parseNat t with
  | none => none
  | some n => if n < 2 ^ 28 then some (BitVec.ofNat 28 n) else none

/-- `R<r1> R<r2> R<r3>` (R96). -/
def parseRegOp (make : RegIdx → RegIdx → RegIdx → Instr) : List (List Char) → Option Instr
  | [a, b, c] => do
    let r1 ← parseReg a
    let r2 ← parseReg b
    let r3 ← parseReg c
    return make r1 r2 r3
  | _ => none

/-- `R<r1> R<r2> <shamt>` (R96). -/
def parseShiftOp (make : RegIdx → RegIdx → BitVec 13 → Instr) : List (List Char) → Option Instr
  | [a, b, c] => do
    let r1 ← parseReg a
    let r2 ← parseReg b
    let shamt ← parseShamt c
    return make r1 r2 shamt
  | _ => none

/-- `R<r1> R<r2> <imm>` (R96). -/
def parseImmOp (make : RegIdx → RegIdx → Word → Instr) : List (List Char) → Option Instr
  | [a, b, c] => do
    let r1 ← parseReg a
    let r2 ← parseReg b
    let imm ← parseImm c
    return make r1 r2 imm
  | _ => none

/-- `<target>` (R96). -/
def parseJmpOp (make : BitVec 28 → Instr) : List (List Char) → Option Instr
  | [a] => do
    let target ← parseTarget a
    return make target
  | _ => none

/-! ### Lines and programs (R95 to R99) -/

/-- What one line is. -/
inductive LineResult where
  /-- No token: a blank line or a full-line comment, ignored (R95). -/
  | blank
  /-- A line that becomes one instruction. -/
  | accepted (i : Instr)
  /-- An unrecognized mnemonic: reported and skipped (R98). -/
  | unknownMnemonic
  /-- A known mnemonic with bad operands: the whole program is refused (R97). -/
  | badOperands
deriving DecidableEq, Repr

/-- A known mnemonic's line, from what its operands parse to. -/
def LineResult.ofOperands : Option Instr → LineResult
  | some i => .accepted i
  | none => .badOperands

/-- One line, from its tokens; mnemonics are upper case and matched exactly (R97). -/
def parseTokens : List (List Char) → LineResult
  | [] => .blank
  | mnemonic :: ops =>
    match mnemonic with
    | ['A', 'D', 'D'] => .ofOperands (parseRegOp .add ops)
    | ['S', 'U', 'B'] => .ofOperands (parseRegOp .sub ops)
    | ['M', 'U', 'L'] => .ofOperands (parseRegOp .mul ops)
    | ['M', 'O', 'V', 'I'] => .ofOperands (parseImmOp .movi ops)
    | ['J', 'E', 'Q'] => .ofOperands (parseImmOp .jeq ops)
    | ['A', 'N', 'D'] => .ofOperands (parseRegOp .and ops)
    | ['X', 'O', 'R', 'I'] => .ofOperands (parseImmOp .xori ops)
    | ['J', 'M', 'P'] => .ofOperands (parseJmpOp .jmp ops)
    | ['L', 'S', 'L'] => .ofOperands (parseShiftOp .lsl ops)
    | ['L', 'S', 'R'] => .ofOperands (parseShiftOp .lsr ops)
    | ['M', 'O', 'V', 'R'] => .ofOperands (parseImmOp .movr ops)
    | ['M', 'O', 'V', 'M'] => .ofOperands (parseImmOp .movm ops)
    | _ => .unknownMnemonic

/-- Why a source program is refused: no run starts (R97, R99). -/
inductive AssemblyError where
  /-- The line (counted from 1) is longer than 128 bytes. -/
  | lineTooLong (line : Nat)
  /-- The line has a known mnemonic and the wrong number, kind or range of operands. -/
  | badOperands (line : Nat)
  /-- More than 2048 lines are accepted. -/
  | programTooLong
deriving DecidableEq, Repr

/-- A program image: the words, the k-th accepted line at address k, and the lines reported and skipped (R98, R99). -/
structure Assembly where
  words : List Word
  skipped : List Nat
deriving DecidableEq, Repr

/-- The image of the lines from number `n` on. A refused program answers its error alone: that the unknown mnemonics of
its other lines are then not reported is the model's own (R98 is silent; DESIGN CHOICE, assumption 9). -/
def assembleLines : Nat → List (List Char) → Except AssemblyError Assembly
  | _, [] => .ok ⟨[], []⟩
  | n, l :: ls =>
    if Config.lineBytes < byteLength l then .error (.lineTooLong n)
    else
      match parseTokens (lineTokens l) with
      | .badOperands => .error (.badOperands n)
      | .blank => assembleLines (n + 1) ls
      | .unknownMnemonic => do
        let rest ← assembleLines (n + 1) ls
        return { rest with skipped := n :: rest.skipped }
      | .accepted i => do
        let rest ← assembleLines (n + 1) ls
        return { rest with words := encode i :: rest.words }

/-- The lines of a source text, one instruction per line (R95); a line ends at a line feed (DESIGN CHOICE,
assumption 9). -/
def sourceLines (source : List Char) : List (List Char) := splitAt (fun c => c = '\n') source

/-- The program image of a source text (R95 to R99). -/
def assemble (source : List Char) : Except AssemblyError Assembly := do
  let image ← assembleLines 1 (sourceLines source)
  if Config.memWords < image.words.length then .error .programTooLong else .ok image

end Sys2Proof.Machine
end

