-- ==== Sys2Proof/Machine/Driver.lean ====
section
/-! DEFINITION. The driver loop and the observation interface (spec 40_pipeline.md R102, R130 to R132;
60_exceptions.md R216, R217). Observing changes nothing. -/

namespace Sys2Proof.Machine

/-- What a bounded run ends in; a run cut short by the host's cap is neither halted nor faulted (R132, R217). -/
inductive RunResult where
  | halted (s : State)
  | faulted (record : FaultRecord) (s : State)
  | outOfFuel (s : State)
  /-- A step gave neither a next state nor a fault; no run reaches it. -/
  | stopped (s : State)
deriving DecidableEq, Repr

/-- Calls `step` once per cycle until the status is no longer `Running` (R102), at most `fuel` times (R217). -/
def drive : Nat → State → RunResult
  | 0, s =>
    match s.status with
    | .halted => .halted s
    | .faulted r => .faulted r s
    | .running => .outOfFuel s
  | n + 1, s =>
    match s.status with
    | .halted => .halted s
    | .faulted r => .faulted r s
    | .running =>
      match step s with
      | .next t => drive n t
      | .fault _ => .stopped s
      | .refused _ => .stopped s

/-- What the host observes at the end of a cycle: "the state after each cycle (all of 10_state.md rules R20 to R39)"
(R216), everything the state holds but the model's own `acting`. Of each stage it shows whether it is occupied, its
word and its address, its counter, and from EX on the decoded record and the results so far. -/
structure Snapshot where
  /-- The current cycle number (R33). -/
  cycle : Nat
  /-- The run status, with the record of a fault (R35, R205). -/
  status : Status
  pc : Word
  icount : Fin 2049
  fsup : Count
  fetch : Option IfLatch
  decode : Option IdLatch
  execute : Option ExLatch
  memory : Option MemLatch
  writeBack : Option WbLatch
  /-- The full register file, `x[0]` to `x[31]`. -/
  registers : List Word
  /-- The memory array, as its nonzero words; `Snapshot.word` reads any address of it. -/
  words : Memory
deriving DecidableEq, Repr

/-- The observation of a state between cycles (R216). -/
def State.observe (s : State) : Snapshot where
  cycle := s.cycle
  status := s.status
  pc := s.pc
  icount := s.icount
  fsup := s.fsup
  fetch := s.ifLatch
  decode := s.idLatch
  execute := s.exLatch
  memory := s.memLatch
  writeBack := s.wbLatch
  registers := (List.finRange 32).map s.readReg
  words := s.memory

/-- The word at address `a` of the memory array observed (R216). -/
def Snapshot.word (o : Snapshot) (a : Fin 2048) : Word := o.words.read a.val

end Sys2Proof.Machine
end

