-- ==== Sys2Proof/Machine/Loader.lean ====
section
/-! DEFINITION. What the host does before cycle 1: the program load and the preload (spec 70_reset_and_hazards.md
R230 to R234; 60_exceptions.md R217). No step calls these: once cycle 1 has begun the host never writes the state. -/

namespace Sys2Proof.Machine

/-- Why the host's request is turned away; no state changes then (the answers are a DESIGN CHOICE, assumption 14). -/
inductive LoadError where
  /-- The image has more than 2048 words (R99, decision D18): no run starts. -/
  | programTooLong
  /-- A record has a field out of range, on which the encoder is not defined (R76; DESIGN CHOICE, assumption 15): no
  run starts. -/
  | fieldOutOfRange
  /-- A preload after cycle 1 has begun (R217, decision D16). -/
  | runBegun
  /-- A preload of register 0, or of a word outside the data space `icount` to 2047 (R233). -/
  | notPreloadable
deriving DecidableEq, Repr

/-- Writes words at consecutive addresses from `k` (R232). -/
def Memory.writeFrom : Nat → List Word → Memory → Memory
  | _, [], m => m
  | k, w :: ws, m => Memory.writeFrom (k + 1) ws (m.write k w)

/-- The state after reset and the load of a program image: word k at address k, `icount` the number of words, every
other word 0 (R231 steps 1 and 2, R232). -/
def State.loadImage (image : List Word) : Except LoadError State :=
  if h : image.length ≤ Config.memWords then
    .ok { State.reset with
      memory := Memory.writeFrom 0 image []
      icount := ⟨image.length, Nat.lt_succ_of_le h⟩ }
  else .error .programTooLong

/-- The loader's output contract: each entry is encoded, and the words, in order, are the image (R234). The spec does
not say what a record with a field out of range does (R76), since the front-end refuses its line (R97); here it
refuses the program, before its length is looked at (DESIGN CHOICE, assumption 15). -/
def State.loadProgram (program : List Instr) : Except LoadError State :=
  if program.all Instr.wellFormed then State.loadImage (program.map encode) else .error .fieldOutOfRange

/-- Preloads register `i`, 1 to 31, before cycle 1 (R233). -/
def State.preloadReg (s : State) (i : RegIdx) (v : Word) : Except LoadError State :=
  if s.cycle ≠ 0 then .error .runBegun
  else if i = 0 then .error .notPreloadable
  else .ok (s.writeReg i v)

/-- Preloads the data word at an address from `icount` to 2047, before cycle 1 (R233). -/
def State.preloadWord (s : State) (a : Nat) (v : Word) : Except LoadError State :=
  if s.cycle ≠ 0 then .error .runBegun
  else if s.icount.val ≤ a ∧ a < Config.memWords then .ok { s with memory := s.memory.write a v }
  else .error .notPreloadable

end Sys2Proof.Machine
end

