-- ==== Sys2Proof/Safety.lean ====
section
/-! DEFINITION. The terms in which statements speak of the machine: the write-back table, runs of several cycles, the
invariant of the pipeline at a cycle boundary (spec 40_pipeline.md R140 to R145; 10_state.md R21, R26), and the
instruction-at-a-time machine the pipeline is compared with (70_reset_and_hazards.md R242). -/

namespace Sys2Proof.Machine

/-! ### Runs -/

/-- `n` cycles in a row, stopping at the first step that gives no next state. -/
def steps : Nat → State → Out
  | 0, s => .next s
  | n + 1, s => andThen (step s) (steps n)

/-! ### The write-back table (R105) -/

/-- What the Write-back stage does with an instruction (R105). -/
inductive WbAction where
  | writeAlu (r1 : RegIdx)
  | writeMdr (r1 : RegIdx)
  | noWrite
deriving DecidableEq, Repr

/-- The table of R105. -/
def wbAction : Instr → WbAction
  | .add r1 _ _ => .writeAlu r1
  | .sub r1 _ _ => .writeAlu r1
  | .mul r1 _ _ => .writeAlu r1
  | .movi r1 _ _ => .writeAlu r1
  | .jeq _ _ _ => .noWrite
  | .and r1 _ _ => .writeAlu r1
  | .xori r1 _ _ => .writeAlu r1
  | .jmp _ => .noWrite
  | .lsl r1 _ _ => .writeAlu r1
  | .lsr r1 _ _ => .writeAlu r1
  | .movr r1 _ _ => .writeMdr r1
  | .movm _ _ _ => .noWrite

/-- The register and the value the WB latch is about to write, if any (R104, R105). -/
def WbLatch.pending (b : WbLatch) : Option (RegIdx × Word) :=
  match wbAction b.ins with
  | .writeAlu r1 => b.alu.map fun v => (r1, v)
  | .writeMdr r1 => b.mdr.map fun v => (r1, v)
  | .noWrite => none

/-- The MEM and WB latches carry an ALU result for every instruction but JEQ and JMP (R30, R112). -/
def carriesAlu : Instr → Bool
  | .jeq _ _ _ => false
  | .jmp _ => false
  | _ => true

/-- The WB latch carries a memory result for MOVR only (R30, R106). -/
def carriesMdr : Instr → Bool
  | .movr _ _ _ => true
  | _ => false

/-! ### The invariant at a cycle boundary -/

/-- Register 0 holds 0 (R21), the memory is in its canonical form, and the PC is at most 2048 (R26). -/
abbrev State.ArchOk (s : State) : Prop :=
  s.regs.get 0 = 0 ∧ s.memory.wf ∧ s.pc.toNat ≤ Config.memWords

/-- Each latch from EX on holds the record its word decodes to, and exactly the fields of R30 for it; an occupied EX
has cycles left (R109). -/
abbrev State.LatchOk (s : State) : Prop :=
  (∀ e ∈ s.exLatch, decode e.word = .ok e.ins ∧ e.ecnt ≠ 0) ∧
  (∀ m ∈ s.memLatch, decode m.word = .ok m.ins ∧ m.alu.isSome = carriesAlu m.ins) ∧
  (∀ b ∈ s.wbLatch, decode b.word = .ok b.ins ∧ b.alu.isSome = carriesAlu b.ins ∧
    b.mdr.isSome = carriesMdr b.ins)

/-- After an even number of cycles: IF and WB are empty, the counters of ID and EX are fresh; suppression pends only
right after a taken branch, with ID and EX empty; and ID is empty only at the start, after a branch, or past the
program. -/
abbrev State.EvenOk (s : State) : Prop :=
  s.ifLatch = none ∧ s.wbLatch = none ∧ (∀ d ∈ s.idLatch, d.dcnt = 2) ∧ (∀ e ∈ s.exLatch, e.ecnt = 2) ∧
  (s.fsup = 0 ∨ (s.fsup = 1 ∧ s.idLatch = none ∧ s.exLatch = none)) ∧
  (s.cycle = 0 ∨ s.fsup = 1 ∨ s.idLatch ≠ none ∨ s.icount.val ≤ s.pc.toNat)

/-- After an odd number of cycles: MEM is empty, ID and EX have one cycle left, nothing is suppressed, and IF waits
only behind an occupied ID, but for cycle 1 (R126). -/
abbrev State.OddOk (s : State) : Prop :=
  s.memLatch = none ∧ (∀ d ∈ s.idLatch, d.dcnt = 1) ∧ (∀ e ∈ s.exLatch, e.ecnt = 1) ∧ s.fsup = 0 ∧
  (s.ifLatch ≠ none → s.idLatch ≠ none ∨ s.cycle = 1)

/-- The two-cycle rhythm of the pipeline, from which R142 and R143 follow. -/
abbrev State.TimingOk (s : State) : Prop :=
  if s.cycle % 2 = 0 then s.EvenOk else s.OddOk

/-- Program order (R141, R191): occupied latches hold consecutive addresses, oldest in WB or MEM, each fetched from
below `icount` (R123), and the PC is one past the youngest of IF, ID and EX; where the next latch is empty the program
has ended. -/
abbrev State.OrderOk (s : State) : Prop :=
  (∀ e ∈ s.exLatch, (∀ d ∈ s.idLatch, d.ia = e.ia + 1) ∧ (∀ m ∈ s.memLatch, e.ia = m.ia + 1) ∧
    (∀ b ∈ s.wbLatch, e.ia = b.ia + 1) ∧
    (s.idLatch = none → s.ifLatch = none ∧ s.pc = e.ia + 1 ∧ s.icount.val ≤ s.pc.toNat)) ∧
  (∀ d ∈ s.idLatch, (∀ f ∈ s.ifLatch, f.ia = d.ia + 1) ∧ (s.ifLatch = none → s.pc = d.ia + 1) ∧
    (s.ifLatch = none → s.cycle % 2 = 1 → s.icount.val ≤ s.pc.toNat)) ∧
  (∀ f ∈ s.ifLatch, s.pc = f.ia + 1) ∧
  (∀ e ∈ s.exLatch, e.ia.toNat < s.icount.val) ∧ (∀ d ∈ s.idLatch, d.ia.toNat < s.icount.val) ∧
  (∀ f ∈ s.ifLatch, f.ia.toNat < s.icount.val)

/-- The cycle that the record of a faulted status names. -/
def Status.faultCycle : Status → Option Nat
  | .running => none
  | .halted => none
  | .faulted r => some r.cycle

/-- A halted state is drained (R130), and a fault record names the cycle after the last one begun (R204). -/
abbrev State.StatusOk (s : State) : Prop :=
  (s.status = .halted → s.drained) ∧ ∀ c ∈ s.status.faultCycle, c = s.cycle + 1

/-- The invariant of every cycle boundary. -/
abbrev State.Inv (s : State) : Prop :=
  s.ArchOk ∧ s.LatchOk ∧ s.TimingOk ∧ s.OrderOk ∧ s.StatusOk

/-- The status is not a fault. -/
abbrev State.notFaulted (s : State) : Prop := s.status.faultCycle = none

/-! ### Source programs (R95 to R99) -/

/-- The encoded words of the accepted lines, in source order (R99). -/
def acceptedWords (lines : List (List Char)) : List Word :=
  lines.filterMap fun l =>
    match parseTokens (lineTokens l) with
    | .accepted i => some (encode i)
    | .blank => none
    | .unknownMnemonic => none
    | .badOperands => none

/-- A line that refuses the whole program: longer than 128 bytes, or a known mnemonic with bad operands (R97). -/
def refusesProgram (line : List Char) : Prop :=
  128 < byteLength line ∨ parseTokens (lineTokens line) = .badOperands

/-! ### One instruction at a time (R242) -/

/-- The state a program sees between instructions: registers, memory, and the address of the next instruction. -/
structure ArchState where
  regs : Vector Word 32
  memory : Memory
  pc : Word
deriving DecidableEq, Repr

/-- `x[i]` (R21). -/
def ArchState.readReg (a : ArchState) (i : RegIdx) : Word := if i = 0 then 0 else a.regs.get i

/-- The next instruction in order, after `x[i] <- v` (R22). -/
def ArchState.writeNext (a : ArchState) (i : RegIdx) (v : Word) : ArchState :=
  { a with regs := if i = 0 then a.regs else a.regs.set i v, pc := a.pc + 1 }

/-- A control transfer to `t`, or none where it faults (R196). -/
def ArchState.goTo (a : ArchState) (t : Word) : Option ArchState :=
  if inBounds t then some { a with pc := t } else none

/-- One whole instruction in program order, with none of the pipeline; none where the instruction faults (R150 to
R158, R180, R184, R190, R193, R194). -/
def archStep (i : Instr) (a : ArchState) : Option ArchState :=
  match i with
  | .add r1 r2 r3 => some (a.writeNext r1 (a.readReg r2 + a.readReg r3))
  | .sub r1 r2 r3 => some (a.writeNext r1 (a.readReg r2 - a.readReg r3))
  | .mul r1 r2 r3 => some (a.writeNext r1 (a.readReg r2 * a.readReg r3))
  | .movi r1 _ imm => some (a.writeNext r1 imm)
  | .jeq r1 r2 imm =>
    if a.readReg r1 = a.readReg r2 then a.goTo (a.pc + 1 + imm) else some { a with pc := a.pc + 1 }
  | .and r1 r2 r3 => some (a.writeNext r1 (a.readReg r2 &&& a.readReg r3))
  | .xori r1 r2 imm => some (a.writeNext r1 (a.readReg r2 ^^^ imm))
  | .jmp target => a.goTo (target.setWidth 32)
  | .lsl r1 r2 shamt => some (a.writeNext r1 (a.readReg r2 <<< shamt.toNat))
  | .lsr r1 r2 shamt => some (a.writeNext r1 (a.readReg r2 >>> shamt.toNat))
  | .movr r1 r2 imm =>
    let address := a.readReg r2 + imm
    if inBounds address then some (a.writeNext r1 (a.memory.read address.toNat)) else none
  | .movm r1 r2 imm =>
    let address := a.readReg r2 + imm
    if inBounds address then
      some { a with memory := a.memory.write address.toNat (a.readReg r1), pc := a.pc + 1 }
    else none

/-- The register file once the instruction in WB has written back. -/
def State.settledRegs (s : State) : Vector Word 32 :=
  match s.wbLatch with
  | none => s.regs
  | some b =>
    match b.pending with
    | none => s.regs
    | some (i, v) => (s.writeReg i v).regs

/-- What a program sees when the instruction at `ia` is about to complete Execute. -/
def State.archView (s : State) (ia : Word) : ArchState :=
  { regs := s.settledRegs, memory := s.memory, pc := ia }

/-! ### Shapes of meanings -/

/-- An instruction that computes `result` in EX, passes through MEM and writes it to `r1` in WB: each stage answers a
next state in which only the latches named, and in WB register `r1`, differ (R104 to R108, R154). A write to register
0 changes nothing (R22). -/
def AluShape (i : Instr) (r1 : RegIdx) (result : State → Word) : Prop :=
  ∀ s : State,
    (∀ e, s.acting = .execute → s.exLatch = some e →
      exec i s = .next { s with exLatch := none, memLatch := some ⟨e.word, e.ia, e.ins, some (result s)⟩ }) ∧
    (∀ m, s.acting = .memory → s.memLatch = some m →
      exec i s = .next { s with memLatch := none, wbLatch := some ⟨m.word, m.ia, m.ins, m.alu, none⟩ }) ∧
    (∀ b v, s.acting = .writeBack → s.wbLatch = some b → b.alu = some v →
      exec i s = .next { s with wbLatch := none, regs := if r1 = 0 then s.regs else s.regs.set r1 v })

/-- A branch after Execute: it passes through MEM and WB and writes nothing (R105, R106, R112). -/
def BranchTail (i : Instr) : Prop :=
  ∀ s : State,
    (∀ m, s.acting = .memory → s.memLatch = some m →
      exec i s = .next { s with memLatch := none, wbLatch := some ⟨m.word, m.ia, m.ins, m.alu, none⟩ }) ∧
    (∀ b, s.acting = .writeBack → s.wbLatch = some b → exec i s = .next { s with wbLatch := none })

/-- The bits of a word that the format of an instruction defines (R71): all but [12:0] of R-format and [17:13] of
S-format. -/
def definedBits : Instr → Word
  | .add _ _ _ => 0xFFFFE000
  | .sub _ _ _ => 0xFFFFE000
  | .mul _ _ _ => 0xFFFFE000
  | .and _ _ _ => 0xFFFFE000
  | .lsl _ _ _ => 0xFFFC1FFF
  | .lsr _ _ _ => 0xFFFC1FFF
  | .movi _ _ _ => 0xFFFFFFFF
  | .jeq _ _ _ => 0xFFFFFFFF
  | .xori _ _ _ => 0xFFFFFFFF
  | .jmp _ => 0xFFFFFFFF
  | .movr _ _ _ => 0xFFFFFFFF
  | .movm _ _ _ => 0xFFFFFFFF

end Sys2Proof.Machine
end

