-- ==== Sys2Proof/Certificates/Slice0/Obligations.lean ====
section
/-! DEFINITION. The statements for the provers. Each docstring names the rule of spec/ it formalises. -/

open Sys2Proof Sys2Proof.Machine

/-! ### The codec (30_encoding.md) -/

/-- Derived from R76, R77 and R81, whose last sentence the spec infers from R76 and R80: decoding an encoded legal
instruction gives it back; encoding what a word decodes to gives the word with the bits its format does not define
cleared; and a word with such a bit set is the encoding of no instruction. -/
def Obligations.DecodeAndEncodeRoundTrip : Prop :=
  (∀ i : Instr, i.wellFormed = true → decode (encode i) = .ok i) ∧
  (∀ i : Instr, i.wellFormed = true → ∀ j, decode (encode i) = .ok j → encode j = encode i) ∧
  (∀ (w : Word) (i : Instr), decode w = .ok i → encode i = w &&& definedBits i) ∧
  (∀ (w : Word) (i : Instr), decode w = .ok i → w &&& ~~~(definedBits i) ≠ 0 → ∀ j : Instr, encode j ≠ w)

/-- Derived from R76: the word of each instruction as a number, its fields at their places and every other bit zero.
For an immediate outside -131072 to 131071, on which the spec does not define the encoder, that the low 18 bits are
kept is the model's choice, assumption 15. -/
def Obligations.EncodedWordIsTheSumOfItsFields : Prop :=
  (∀ r1 r2 r3 : RegIdx,
    let fields := r1.val * 2 ^ 23 + r2.val * 2 ^ 18 + r3.val * 2 ^ 13
    (encode (.add r1 r2 r3)).toNat = 0 * 2 ^ 28 + fields ∧ (encode (.sub r1 r2 r3)).toNat = 1 * 2 ^ 28 + fields ∧
    (encode (.mul r1 r2 r3)).toNat = 2 * 2 ^ 28 + fields ∧ (encode (.and r1 r2 r3)).toNat = 5 * 2 ^ 28 + fields) ∧
  (∀ (r1 r2 : RegIdx) (shamt : BitVec 13),
    let fields := r1.val * 2 ^ 23 + r2.val * 2 ^ 18 + shamt.toNat
    (encode (.lsl r1 r2 shamt)).toNat = 8 * 2 ^ 28 + fields ∧
    (encode (.lsr r1 r2 shamt)).toNat = 9 * 2 ^ 28 + fields) ∧
  (∀ (r1 r2 : RegIdx) (imm : Word),
    let fields := r1.val * 2 ^ 23 + r2.val * 2 ^ 18 + imm.toNat % 2 ^ 18
    (encode (.movi r1 r2 imm)).toNat = 3 * 2 ^ 28 + fields ∧ (encode (.jeq r1 r2 imm)).toNat = 4 * 2 ^ 28 + fields ∧
    (encode (.xori r1 r2 imm)).toNat = 6 * 2 ^ 28 + fields ∧
    (encode (.movr r1 r2 imm)).toNat = 10 * 2 ^ 28 + fields ∧
    (encode (.movm r1 r2 imm)).toNat = 11 * 2 ^ 28 + fields) ∧
  (∀ target : BitVec 28, (encode (.jmp target)).toNat = 7 * 2 ^ 28 + target.toNat)

/-- Derived from R77 to R79; R82 is the spec's own inference: a word is exactly one instruction when bits [31:28] are
0 to 11, and then a legal one with that opcode; with 12 to 15 it is invalid. -/
def Obligations.DecodeRejectsExactlyOpcodes12To15 : Prop :=
  ∀ w : Word,
    ((fieldOp w).toNat ≤ 11 → ∃ i : Instr, decode w = .ok i ∧ i.opcode = fieldOp w ∧ i.wellFormed = true) ∧
    (12 ≤ (fieldOp w).toNat → decode w = .error (.invalidOpcode (fieldOp w)))

/-- Derived from R71 and the spec's decision D14 (R80): bits a format does not define never change what a word decodes
to. -/
def Obligations.DecodeIgnoresUndefinedBits : Prop :=
  ∀ (w u : Word) (i : Instr), decode w = .ok i →
    decode ((w &&& definedBits i) ||| (u &&& ~~~(definedBits i))) = .ok i

/-- Derived from R76 and R77; R84 is the spec's own computation: the example words of the document's programs, encoded
and decoded. -/
def Obligations.ExampleWordsEncodeAndDecode : Prop :=
  (encode (.add 1 2 3) = 0x00886000 ∧ decode 0x00886000 = .ok (.add 1 2 3)) ∧
  (encode (.movi 4 0 9) = 0x32000009 ∧ decode 0x32000009 = .ok (.movi 4 0 9)) ∧
  (encode (.jeq 1 2 5) = 0x40880005 ∧ decode 0x40880005 = .ok (.jeq 1 2 5)) ∧
  (encode (.movm 3 0 100) = 0xB1800064 ∧ decode 0xB1800064 = .ok (.movm 3 0 100)) ∧
  (encode (.movr 4 0 100) = 0xA2000064 ∧ decode 0xA2000064 = .ok (.movr 4 0 100))

/-! ### The instructions (41_integer_alu.md, 42_load_store.md, 43_control_transfer.md) -/

/-- R150: ADD, its encoding and what it does in EX, MEM and WB. -/
def Obligations.AddWritesTheSum : Prop :=
  ∀ r1 r2 r3 : RegIdx,
    (∀ u : BitVec 13, decode (0#4 ++ regField r1 ++ regField r2 ++ regField r3 ++ u) = .ok (.add r1 r2 r3)) ∧
    AluShape (.add r1 r2 r3) r1 fun s => BitVec.ofNat 32 ((s.readReg r2).toNat + (s.readReg r3).toNat)

/-- R151: SUB, its encoding and what it does in EX, MEM and WB. -/
def Obligations.SubWritesTheDifference : Prop :=
  ∀ r1 r2 r3 : RegIdx,
    (∀ u : BitVec 13, decode (1#4 ++ regField r1 ++ regField r2 ++ regField r3 ++ u) = .ok (.sub r1 r2 r3)) ∧
    AluShape (.sub r1 r2 r3) r1 fun s => BitVec.ofInt 32 (((s.readReg r2).toNat : Int) - (s.readReg r3).toNat)

/-- R152 (the spec's decision D3): MUL, its encoding and what it does in EX, MEM and WB. -/
def Obligations.MulWritesTheLowProduct : Prop :=
  ∀ r1 r2 r3 : RegIdx,
    (∀ u : BitVec 13, decode (2#4 ++ regField r1 ++ regField r2 ++ regField r3 ++ u) = .ok (.mul r1 r2 r3)) ∧
    AluShape (.mul r1 r2 r3) r1 fun s => BitVec.ofNat 32 ((s.readReg r2).toNat * (s.readReg r3).toNat)

/-- R153: AND, its encoding and what it does in EX, MEM and WB. -/
def Obligations.AndWritesTheBitwiseAnd : Prop :=
  ∀ r1 r2 r3 : RegIdx,
    (∀ u : BitVec 13, decode (5#4 ++ regField r1 ++ regField r2 ++ regField r3 ++ u) = .ok (.and r1 r2 r3)) ∧
    AluShape (.and r1 r2 r3) r1 fun s => s.readReg r2 &&& s.readReg r3

/-- R155 (the spec's decision D5): MOVI, its encoding and what it does in EX, MEM and WB; the r2 field has no effect. -/
def Obligations.MoviWritesTheImmediate : Prop :=
  ∀ (r1 r2 : RegIdx) (field : BitVec 18),
    decode (3#4 ++ regField r1 ++ regField r2 ++ field) = .ok (.movi r1 r2 (field.signExtend 32)) ∧
    AluShape (.movi r1 r2 (field.signExtend 32)) r1 fun _ => field.signExtend 32

/-- R156 (the spec's decision D4): XORI, its encoding and what it does in EX, MEM and WB. -/
def Obligations.XoriWritesTheExclusiveOr : Prop :=
  ∀ (r1 r2 : RegIdx) (field : BitVec 18),
    decode (6#4 ++ regField r1 ++ regField r2 ++ field) = .ok (.xori r1 r2 (field.signExtend 32)) ∧
    AluShape (.xori r1 r2 (field.signExtend 32)) r1 fun s => s.readReg r2 ^^^ field.signExtend 32

/-- R157 (the spec's decision D6): LSL, its encoding and what it does in EX, MEM and WB; a shift by 32 or more gives
0. -/
def Obligations.LslWritesTheLeftShift : Prop :=
  ∀ (r1 r2 : RegIdx) (shamt : BitVec 13),
    (∀ u : BitVec 5, decode (8#4 ++ regField r1 ++ regField r2 ++ u ++ shamt) = .ok (.lsl r1 r2 shamt)) ∧
    AluShape (.lsl r1 r2 shamt) r1 fun s =>
      if shamt.toNat < 32 then BitVec.ofNat 32 ((s.readReg r2).toNat * 2 ^ shamt.toNat) else 0

/-- R158 (the spec's decisions D6 and D7): LSR, its encoding and what it does in EX, MEM and WB; a shift by 32 or more
gives 0. -/
def Obligations.LsrWritesTheRightShift : Prop :=
  ∀ (r1 r2 : RegIdx) (shamt : BitVec 13),
    (∀ u : BitVec 5, decode (9#4 ++ regField r1 ++ regField r2 ++ u ++ shamt) = .ok (.lsr r1 r2 shamt)) ∧
    AluShape (.lsr r1 r2 shamt) r1 fun s =>
      if shamt.toNat < 32 then BitVec.ofNat 32 ((s.readReg r2).toNat / 2 ^ shamt.toNat) else 0

/-- R180, R181: MOVR, its encoding; EX computes the effective address; MEM reads the word there, or raises
`FaultMemOutOfBounds`; WB writes it to r1. Nothing else changes. -/
def Obligations.MovrLoadsTheWord : Prop :=
  ∀ (r1 r2 : RegIdx) (field : BitVec 18),
    let imm : Word := field.signExtend 32
    let i : Instr := .movr r1 r2 imm
    decode (10#4 ++ regField r1 ++ regField r2 ++ field) = .ok i ∧
    ∀ s : State,
      (∀ e, s.acting = .execute → s.exLatch = some e →
        exec i s =
          .next { s with exLatch := none, memLatch := some ⟨e.word, e.ia, e.ins, some (s.readReg r2 + imm)⟩ }) ∧
      (∀ m a, s.acting = .memory → s.memLatch = some m → m.alu = some a → a.toNat < 2048 →
        exec i s =
          .next { s with
            memLatch := none, wbLatch := some ⟨m.word, m.ia, m.ins, some a, some (s.memory.read a.toNat)⟩ }) ∧
      (∀ m a, s.acting = .memory → s.memLatch = some m → m.ins = i → m.alu = some a → 2048 ≤ a.toNat →
        exec i s = .fault (.raised (.memOutOfBounds s.cycle 10 a m.ia m.word))) ∧
      (∀ b v, s.acting = .writeBack → s.wbLatch = some b → b.mdr = some v →
        exec i s = .next { s with wbLatch := none, regs := if r1 = 0 then s.regs else s.regs.set r1 v })

/-- R184, R181: MOVM, its encoding; EX computes the effective address; MEM stores x[r1] there and nowhere else, or
raises `FaultMemOutOfBounds` and writes nothing; WB writes no register. Nothing else changes. -/
def Obligations.MovmStoresTheWord : Prop :=
  ∀ (r1 r2 : RegIdx) (field : BitVec 18),
    let imm : Word := field.signExtend 32
    let i : Instr := .movm r1 r2 imm
    decode (11#4 ++ regField r1 ++ regField r2 ++ field) = .ok i ∧
    ∀ s : State,
      (∀ e, s.acting = .execute → s.exLatch = some e →
        exec i s =
          .next { s with exLatch := none, memLatch := some ⟨e.word, e.ia, e.ins, some (s.readReg r2 + imm)⟩ }) ∧
      (∀ m a, s.acting = .memory → s.memLatch = some m → m.alu = some a → a.toNat < 2048 → s.memory.wf →
        ∃ mem' : Memory,
          exec i s =
            .next { s with memory := mem', memLatch := none, wbLatch := some ⟨m.word, m.ia, m.ins, some a, none⟩ } ∧
          mem'.read a.toNat = s.readReg r1 ∧ ∀ b, b ≠ a.toNat → mem'.read b = s.memory.read b) ∧
      (∀ m a, s.acting = .memory → s.memLatch = some m → m.ins = i → m.alu = some a → 2048 ≤ a.toNat →
        exec i s = .fault (.raised (.memOutOfBounds s.cycle 11 a m.ia m.word))) ∧
      (∀ b, s.acting = .writeBack → s.wbLatch = some b → exec i s = .next { s with wbLatch := none })

/-- R190 (its base by the spec's decision D27): JEQ, its encoding; EX compares the two registers; where they are equal
it goes to its own address + 1 + imm, flushing IF and ID and suppressing two fetches, or raises `FaultPcOutOfBounds`;
where they differ it redirects nothing. MEM and WB do nothing but pass it on. -/
def Obligations.JeqBranchesWhenEqual : Prop :=
  ∀ (r1 r2 : RegIdx) (field : BitVec 18),
    let imm : Word := field.signExtend 32
    let i : Instr := .jeq r1 r2 imm
    decode (4#4 ++ regField r1 ++ regField r2 ++ field) = .ok i ∧
    (∀ (s : State) (e : ExLatch), s.acting = .execute → s.exLatch = some e →
      let t : Word := e.ia + 1 + imm
      (s.readReg r1 ≠ s.readReg r2 →
        exec i s = .next { s with exLatch := none, memLatch := some ⟨e.word, e.ia, e.ins, none⟩ }) ∧
      (s.readReg r1 = s.readReg r2 → t.toNat < 2048 →
        exec i s =
          .next { s with
            pc := t, ifLatch := none, idLatch := none, fsup := 2,
            exLatch := none, memLatch := some ⟨e.word, e.ia, e.ins, none⟩ }) ∧
      (s.readReg r1 = s.readReg r2 → e.ins = i → 2048 ≤ t.toNat →
        exec i s = .fault (.raised (.pcOutOfBounds s.cycle 4 t e.ia e.word)))) ∧
    BranchTail i

/-- R193: JMP, its encoding; EX replaces the low 28 bits of the PC, flushing IF and ID and suppressing two fetches, or
raises `FaultPcOutOfBounds`. MEM and WB do nothing but pass it on. -/
def Obligations.JmpReplacesTheLowPcBits : Prop :=
  ∀ target : BitVec 28,
    decode (7#4 ++ target) = .ok (.jmp target) ∧
    (∀ (s : State) (e : ExLatch), s.acting = .execute → s.exLatch = some e →
      let t : Word := s.pc.extractLsb' 28 4 ++ target
      (t.toNat < 2048 →
        exec (.jmp target) s =
          .next { s with
            pc := t, ifLatch := none, idLatch := none, fsup := 2,
            exLatch := none, memLatch := some ⟨e.word, e.ia, e.ins, none⟩ }) ∧
      (e.ins = .jmp target → 2048 ≤ t.toNat →
        exec (.jmp target) s = .fault (.raised (.pcOutOfBounds s.cycle 7 t e.ia e.word)))) ∧
    BranchTail (.jmp target)

/-! ### Registers and memory (10_state.md, 20_memory.md) -/

/-- R21: register 0 reads 0 at all times, and it holds 0 before and after every cycle; any other register reads the
value stored in it. -/
def Obligations.RegisterZeroReadsZero : Prop :=
  (∀ s : State, s.readReg 0 = 0) ∧
  (∀ (s : State) (i : RegIdx), i ≠ 0 → s.readReg i = s.regs.get i) ∧
  (∀ s t : State, s.regs.get 0 = 0 → step s = .next t → t.regs.get 0 = 0)

/-- R22: a write to register 0 changes nothing; a write to any other register sets it alone; and the only change a
cycle makes to the register file is the one write of the instruction in WB. -/
def Obligations.RegistersChangeOnlyInWriteBack : Prop :=
  (∀ (s : State) (v : Word), s.writeReg 0 v = s) ∧
  (∀ (s : State) (i j : RegIdx) (v : Word), i ≠ 0 →
    (s.writeReg i v).readReg j = if j = i then v else s.readReg j) ∧
  (∀ s t : State, step s = .next t →
    t.regs = s.regs ∨
      ∃ b i v, s.wbLatch = some b ∧ b.pending = some (i, v) ∧ i ≠ 0 ∧ t.regs = s.regs.set i v)

/-- Derived from R52 and R53, as the operations every access goes through: below 2048 a read answers the word and a
write sets that word alone; at 2048 or more neither is made. -/
def Obligations.MemoryReadsTheLastWrite : Prop :=
  ∀ (s : State) (a v : Word),
    (2048 ≤ a.toNat → s.memRead a = none ∧ s.memWrite a v = none) ∧
    (a.toNat < 2048 → s.memory.wf →
      s.memRead a = some (s.memory.read a.toNat) ∧
      ∃ mem' : Memory, s.memWrite a v = some { s with memory := mem' } ∧
        ∀ b, mem'.read b = if b = a.toNat then v else s.memory.read b)

/-- Derived from R184 to R186: the memory changes in a cycle only by the store of the MOVM in MEM, at its own address,
with the value its data register has once the instruction in WB has written back. -/
def Obligations.MemoryChangesOnlyByMovm : Prop :=
  ∀ s t : State, step s = .next t →
    t.memory = s.memory ∨
      ∃ m r1 r2 imm a, s.memLatch = some m ∧ m.ins = .movm r1 r2 imm ∧ m.alu = some a ∧ a.toNat < 2048 ∧
        t.memory = s.memory.write a.toNat ((s.archView m.ia).readReg r1) ∧
        ∀ b, b ≠ a.toNat → t.memory.read b = s.memory.read b

/-- Derived from R53, R100, R119 and R123, as the spec infers in R60: a fetch reads memory after the store of its own
cycle; a word already in IF or ID is not re-read. -/
def Obligations.FetchSeesTheStoreOfItsCycle : Prop :=
  ∀ s t : State, step s = .next t → t.notFaulted →
    (∀ f, t.ifLatch = some f →
      s.ifLatch = some f ∨ (f.ia = s.pc ∧ f.word = t.memory.read f.ia.toNat)) ∧
    (∀ d, t.idLatch = some d →
      (∃ d', s.idLatch = some d' ∧ d.word = d'.word ∧ d.ia = d'.ia) ∨
        (∃ f, s.ifLatch = some f ∧ d.word = f.word ∧ d.ia = f.ia) ∨
        (d.ia = s.pc ∧ d.word = t.memory.read d.ia.toNat))

/-- Derived from R25, R123, R190 and R193: the PC changes in a cycle only by a fetch, which adds 1 while it is below
icount, or by the JEQ or JMP that completes Execute. -/
def Obligations.PcMovesOnlyByFetchOrBranch : Prop :=
  ∀ s t : State, step s = .next t →
    t.pc = s.pc ∨ (t.pc = s.pc + 1 ∧ s.pc.toNat < s.icount.val) ∨
      ∃ e, s.exLatch = some e ∧ countDown e.ecnt = 0 ∧ t.pc.toNat < 2048 ∧
        ((∃ r1 r2 imm, e.ins = .jeq r1 r2 imm ∧ t.pc = e.ia + 1 + imm) ∨
          (∃ target, e.ins = .jmp target ∧ t.pc = s.pc.extractLsb' 28 4 ++ target))

/-- Derived from R33, R34, R102 and R204: every cycle that does not fault adds 1 to the cycle counter, and no cycle
changes icount. -/
def Obligations.CycleCountAdvancesAndIcountStays : Prop :=
  ∀ s t : State, step s = .next t →
    t.icount = s.icount ∧ (t.notFaulted → t.cycle = s.cycle + 1) ∧ (¬t.notFaulted → t.cycle = s.cycle)

/-! ### The stages (40_pipeline.md) -/

/-- R105, in the stage of R104: the Write-back stage does the action of its table and empties WB; nothing else changes
but the model's own field that names the acting stage. -/
def Obligations.WriteBackStageFollowsItsTable : Prop :=
  ∀ s : State,
    (s.wbLatch = none → writeBackStage s = .next (s.actAt .writeBack)) ∧
    (∀ b r v, s.wbLatch = some b →
      (wbAction b.ins = .writeAlu r ∧ b.alu = some v ∨ wbAction b.ins = .writeMdr r ∧ b.mdr = some v) →
      writeBackStage s =
        .next { s with
          wbLatch := none, acting := .writeBack, regs := if r = 0 then s.regs else s.regs.set r v }) ∧
    (∀ b, s.wbLatch = some b → wbAction b.ins = .noWrite →
      writeBackStage s = .next { s with wbLatch := none, acting := .writeBack })

/-- R106: the Memory stage loads for MOVR, stores for MOVM, passes every other instruction through unchanged, and
moves it to WB; an address of 2048 or more raises the fault. -/
def Obligations.MemoryStageAccessesAndMovesOn : Prop :=
  ∀ s : State,
    (s.memLatch = none → memoryStage s = .next (s.actAt .memory)) ∧
    ∀ m, s.memLatch = some m →
      ((∀ r1 r2 imm, m.ins ≠ .movr r1 r2 imm) → (∀ r1 r2 imm, m.ins ≠ .movm r1 r2 imm) →
        memoryStage s =
          .next { s with
            memLatch := none, acting := .memory, wbLatch := some ⟨m.word, m.ia, m.ins, m.alu, none⟩ }) ∧
      (∀ r1 r2 imm a, m.ins = .movr r1 r2 imm → m.alu = some a →
        memoryStage s =
          if a.toNat < 2048 then
            .next { s with
              memLatch := none, acting := .memory,
              wbLatch := some ⟨m.word, m.ia, m.ins, m.alu, some (s.memory.read a.toNat)⟩ }
          else .fault (.raised (.memOutOfBounds s.cycle 10 a m.ia m.word))) ∧
      (∀ r1 r2 imm a, m.ins = .movm r1 r2 imm → m.alu = some a →
        memoryStage s =
          if a.toNat < 2048 then
            .next { s with
              memLatch := none, acting := .memory,
              memory := s.memory.write a.toNat (s.readReg r1),
              wbLatch := some ⟨m.word, m.ia, m.ins, m.alu, none⟩ }
          else .fault (.raised (.memOutOfBounds s.cycle 11 a m.ia m.word)))

/-- Derived from R108: the Execute stage counts down; until the counter reaches zero nothing else changes, and at zero
the instruction does its own Execute action. -/
def Obligations.ExecuteStageCountsThenCompletes : Prop :=
  ∀ s : State,
    (s.exLatch = none → executeStage s = .next (s.actAt .execute)) ∧
    ∀ e, s.exLatch = some e →
      let waiting : State :=
        { s with exLatch := some ⟨e.word, e.ia, e.ins, countDown e.ecnt⟩, acting := .execute }
      (e.ecnt = 2 → executeStage s = .next waiting) ∧
      (e.ecnt = 1 → executeStage s = exec e.ins waiting)

/-- R118: the Decode stage counts down, never below zero; at zero with EX empty it decodes the word held in ID and
moves it to EX with the execute counter 2, or raises `FaultInvalidOpcode`; with EX occupied it waits. -/
def Obligations.DecodeStageCountsThenMovesOn : Prop :=
  ∀ s : State,
    (s.idLatch = none → decodeStage s = .next s) ∧
    ∀ d, s.idLatch = some d →
      (d.dcnt = 2 → decodeStage s = .next { s with idLatch := some ⟨d.word, d.ia, 1⟩ }) ∧
      (d.dcnt ≠ 2 → s.exLatch ≠ none → decodeStage s = .next { s with idLatch := some ⟨d.word, d.ia, 0⟩ }) ∧
      (d.dcnt ≠ 2 → s.exLatch = none →
        (∀ i, decode d.word = .ok i →
          decodeStage s = .next { s with idLatch := none, exLatch := some ⟨d.word, d.ia, i, 2⟩ }) ∧
        (12 ≤ (d.word.extractLsb' 28 4).toNat →
          decodeStage s = .fault (.raised (.invalidOpcode s.cycle (d.word.extractLsb' 28 4) d.word d.ia))))

/-- R121: a pending suppression counts down and nothing is fetched; otherwise, with IF empty and the PC below icount,
the word at the PC enters IF with its address and the PC advances by 1; otherwise nothing changes. -/
def Obligations.FetchStageFetchesOrWaits : Prop :=
  ∀ s : State,
    (s.fsup = 2 → fetchStage s = { s with fsup := 1 }) ∧
    (s.fsup = 1 → fetchStage s = { s with fsup := 0 }) ∧
    (s.fsup = 0 → s.ifLatch = none → s.pc.toNat < s.icount.val →
      fetchStage s = { s with ifLatch := some ⟨s.memory.read s.pc.toNat, s.pc⟩, pc := s.pc + 1 }) ∧
    (s.fsup = 0 → s.ifLatch ≠ none ∨ s.icount.val ≤ s.pc.toNat → fetchStage s = s)

/-- R125: after the first cycle an instruction in IF moves to an empty ID with the decode counter 2; in the first
cycle, or with IF empty or ID occupied, nothing moves. -/
def Obligations.TransferStageMovesAfterTheFirstCycle : Prop :=
  ∀ s : State,
    (∀ f, 1 < s.cycle → s.ifLatch = some f → s.idLatch = none →
      transferStage s = { s with idLatch := some ⟨f.word, f.ia, 2⟩, ifLatch := none }) ∧
    (s.cycle ≤ 1 ∨ s.ifLatch = none ∨ s.idLatch ≠ none → transferStage s = s)

/-- Derived from R102 and R118: when the Execute counter of the instruction in EX reaches zero, the step runs exec of
the record that the latch holds, between the Write-back and Memory stages and the Decode, Fetch, transfer and drain
stages of the same cycle; and the record is what the Decode stage decoded from the word fetched. -/
def Obligations.StepRunsTheDecodedInstruction : Prop :=
  (∀ (s s1 s2 : State) (e : ExLatch), s.status = .running → s.exLatch = some e → e.ecnt = 1 →
    writeBackStage s.beginCycle = .next s1 → memoryStage s1 = .next s2 →
    step s = commit s (andThen (exec e.ins { s2 with exLatch := some ⟨e.word, e.ia, e.ins, 0⟩, acting := .execute })
      fun s3 => andThen (decodeStage s3) fun s4 => .next (drainCheck (transferStage (fetchStage s4))))) ∧
  (∀ (s : State) (d : IdLatch) (i : Instr), s.idLatch = some d → d.dcnt = 1 → s.exLatch = none →
    decode d.word = .ok i → decodeStage s = .next { s with idLatch := none, exLatch := some ⟨d.word, d.ia, i, 2⟩ })

/-- Derived from R100 to R108 and assumption 2: with the word of a legal instruction i placed by withFetchWord, the very
next step runs exec of i, alone in the pipeline, and then the Decode, Fetch, transfer and drain stages. -/
def Obligations.PlacedInstructionRunsInTheNextStep : Prop :=
  ∀ (s : State) (i : Instr), i.wellFormed = true →
    let p : State := s.withFetchWord 32 (encode i).toNat
    let e : ExLatch := ⟨encode i, s.placeAddress, i, 0⟩
    p.exLatch = some ⟨encode i, s.placeAddress, i, 1⟩ ∧
    step p =
      commit p (andThen (exec i { p with cycle := p.cycle + 1, exLatch := some e, acting := .execute }) fun s3 =>
        andThen (decodeStage s3) fun s4 => .next (drainCheck (transferStage (fetchStage s4))))

/-- Derived from R121 to R128 and R143: from a drained, running pipeline with one word left to fetch, the machine's own
cycles reach exactly the state that withFetchWord gives: two cycles in ID and one in EX after the fetch, and one more
cycle in IF when the fetch is in cycle 1. -/
def Obligations.FetchedWordReachesExecute : Prop :=
  ∀ (s : State) (i : Instr), s.status = .running → s.ifLatch = none → s.idLatch = none → s.exLatch = none →
    s.memLatch = none → s.wbLatch = none → s.fsup = 0 → s.pc.toNat < 2048 → s.icount.val = s.pc.toNat + 1 →
    s.memory.wf → decode (s.memory.read s.pc.toNat) = .ok i →
    steps (if s.cycle = 0 then 5 else 4) s = .next (s.withFetchWord 32 (s.memory.read s.pc.toNat).toNat)

/-! ### Faults and the end of a run (60_exceptions.md, 40_pipeline.md R130 to R133) -/

/-- R204 (the spec's decision D12): a faulting cycle commits nothing: only the status changes, and the record names
the cycle that faulted. -/
def Obligations.FaultingCycleCommitsNothing : Prop :=
  ∀ (s t : State) (r : FaultRecord), step s = .next t → t.status = .faulted r →
    t = { s with status := .faulted r } ∧ r.cycle = s.cycle + 1

/-- R130 (the spec's decision D17): a cycle that does not fault leaves the machine halted exactly when all latches are
empty, the PC has reached or passed icount and no suppression is pending. -/
def Obligations.HaltsExactlyWhenDrained : Prop :=
  ∀ s t : State, step s = .next t → t.notFaulted →
    (t.status = .halted ↔
      t.ifLatch = none ∧ t.idLatch = none ∧ t.exLatch = none ∧ t.memLatch = none ∧ t.wbLatch = none ∧
        t.icount.val ≤ t.pc.toNat ∧ t.fsup = 0)

/-- Derived from R35 (the spec's decision D29): only a running state has a next cycle; a halted or a faulted one is
asked in vain. -/
def Obligations.OnlyRunningStatesHaveANextCycle : Prop :=
  ∀ s : State, s.status ≠ .running → ∀ t, step s ≠ .next t

/-- R133: from a running state the cycle always answers a next state or a fault, never nothing. The premise is the part
of the invariant that says which fields an occupied latch carries. -/
def Obligations.RunningStatesAlwaysStep : Prop :=
  ∀ s : State, s.status = .running → s.LatchOk →
    (∃ t, runCycle s = .next t ∧ step s = .next t) ∨
      (∃ r, runCycle s = .fault (.raised r) ∧ step s = .next { s with status := .faulted r })

/-- Derived from R205 (codes by the spec's decision D32): the code and the stage of each of the three faults. -/
def Obligations.FaultCodesAndStages : Prop :=
  ∀ (c : Nat) (op : BitVec 4) (a ia word : Word),
    ((FaultRecord.invalidOpcode c op word ia).code = 1 ∧ (FaultRecord.invalidOpcode c op word ia).stage = .decode) ∧
    ((FaultRecord.memOutOfBounds c op a ia word).code = 2 ∧
      (FaultRecord.memOutOfBounds c op a ia word).stage = .memory) ∧
    ((FaultRecord.pcOutOfBounds c op a ia word).code = 3 ∧
      (FaultRecord.pcOutOfBounds c op a ia word).stage = .execute)

/-- Derived from R200 to R204, as the spec infers in R206 and R244: which fault is reported when the instruction
completing Execute faults. A JEQ or JMP whose target is out of bounds faults in that cycle, whatever the word in ID; a
MOVR or MOVM whose address is out of bounds faults in the next cycle, unless the word behind it is invalid, whose
fault comes first. -/
def Obligations.FaultsAreReportedInCycleOrder : Prop :=
  ∀ (s : State) (e : ExLatch), s.Inv → s.status = .running → s.exLatch = some e → e.ecnt = 1 →
    let v := s.archView e.ia
    (∀ r1 r2 imm, e.ins = .jeq r1 r2 imm → v.readReg r1 = v.readReg r2 → 2048 ≤ (e.ia + 1 + imm).toNat →
      step s = .next (s.enterFault (.pcOutOfBounds (s.cycle + 1) 4 (e.ia + 1 + imm) e.ia e.word))) ∧
    (∀ target, e.ins = .jmp target → 2048 ≤ target.toNat →
      step s = .next (s.enterFault (.pcOutOfBounds (s.cycle + 1) 7 (target.setWidth 32) e.ia e.word))) ∧
    (∀ r1 r2 imm, e.ins = .movr r1 r2 imm ∨ e.ins = .movm r1 r2 imm → 2048 ≤ (v.readReg r2 + imm).toNat →
      (∀ d, s.idLatch = some d → 12 ≤ (fieldOp d.word).toNat →
        step s = .next (s.enterFault (.invalidOpcode (s.cycle + 1) (fieldOp d.word) d.word d.ia))) ∧
      ((∀ d, s.idLatch = some d → (fieldOp d.word).toNat ≤ 11) →
        ∃ t, step s = .next t ∧ t.status = .running ∧
          step t = .next (t.enterFault
            (.memOutOfBounds (s.cycle + 2) e.ins.opcode (v.readReg r2 + imm) e.ia e.word))))

/-- Derived from R100 to R118, as the spec infers in R206: while an instruction is in MEM, no Execute completes and no
word is decoded, so a memory fault never shares its cycle with another. -/
def Obligations.MemoryFaultNeverSharesItsCycle : Prop :=
  ∀ s : State, s.Inv → s.memLatch ≠ none →
    (∀ e, s.exLatch = some e → countDown e.ecnt ≠ 0) ∧ (∀ d, s.idLatch = some d → countDown d.dcnt ≠ 0)

/-! ### Invariants of the pipeline (40_pipeline.md R140 to R145) -/

/-- Derived: the invariant holds right after reset. -/
def Obligations.ResetSatisfiesTheInvariant : Prop := State.reset.Inv

/-- Derived from R230 to R233: it holds of every loaded program, and every preload keeps it. -/
def Obligations.LoadedProgramsSatisfyTheInvariant : Prop :=
  (∀ (image : List Word) (s : State), State.loadImage image = .ok s → s.Inv) ∧
  (∀ (s t : State) (i : RegIdx) (v : Word), s.Inv → s.preloadReg i v = .ok t → t.Inv) ∧
  (∀ (s t : State) (a : Nat) (v : Word), s.Inv → s.preloadWord a v = .ok t → t.Inv)

/-- Derived from R21, R26, R30, R109, R130, R141, R142, R204: every step keeps the invariant of the pipeline. -/
def Obligations.StepKeepsThePipelineInvariant : Prop :=
  ∀ s t : State, s.Inv → step s = .next t → t.Inv

/-- Derived from R123 and R196, as the spec infers in R26: the PC stays in 0 to 2048; with it, register 0 stays 0 and
the memory keeps its canonical form, from any state in which the three hold. -/
def Obligations.StepKeepsPcInRange : Prop :=
  ∀ s t : State, s.ArchOk → step s = .next t → t.ArchOk

/-- Derived from R100, R109, R118 and R125, as the spec infers in R142: whenever the decode counter reaches 0 EX is
empty, so the structural stall never occurs, and an instruction that is not flushed spends exactly two cycles in ID. -/
def Obligations.StructuralStallNeverOccurs : Prop :=
  (∀ (s s1 s2 s3 : State) (d : IdLatch), s.Inv → s.status = .running → writeBackStage s.beginCycle = .next s1 →
    memoryStage s1 = .next s2 → executeStage s2 = .next s3 → s3.idLatch = some d → countDown d.dcnt = 0 →
    s3.exLatch = none) ∧
  (∀ (s s1 s2 : State) (d : IdLatch), s.Inv → s.idLatch = some d → d.dcnt = 2 → step s = .next s1 →
    s1.notFaulted → step s1 = .next s2 → s2.notFaulted →
    s1.idLatch = some ⟨d.word, d.ia, 1⟩ ∧
      (s2.fsup = 0 → ∃ i, decode d.word = .ok i ∧ s2.exLatch = some ⟨d.word, d.ia, i, 2⟩))

/-- Derived from R109, and R107, which the spec infers: from the cycle it enters EX an instruction spends two cycles
in EX, one in MEM and one in WB, and then it has left the pipeline. -/
def Obligations.ExecuteTakesTwoCyclesThenMemThenWriteBack : Prop :=
  ∀ (s s1 s2 s3 s4 : State) (e : ExLatch), s.Inv → s.exLatch = some e → e.ecnt = 2 →
    step s = .next s1 → s1.notFaulted → step s1 = .next s2 → s2.notFaulted →
    step s2 = .next s3 → s3.notFaulted → step s3 = .next s4 → s4.notFaulted →
    s1.exLatch = some ⟨e.word, e.ia, e.ins, 1⟩ ∧
    (∃ alu, s2.memLatch = some ⟨e.word, e.ia, e.ins, alu⟩ ∧
      ∃ mdr, s3.wbLatch = some ⟨e.word, e.ia, e.ins, alu, mdr⟩) ∧
    s3.memLatch = none ∧ s4.wbLatch = none

/-- Derived from R115 to R117, as the spec infers in R145: when a branch is taken every younger instruction is in IF
or ID, at the next two addresses; the flush discards them all, none has changed a register or memory, and the branch
itself goes on to MEM. -/
def Obligations.TakenBranchDiscardsEveryYoungerInstruction : Prop :=
  ∀ (s t : State) (e : ExLatch), s.Inv → s.exLatch = some e → e.ecnt = 1 → step s = .next t → t.notFaulted →
    t.fsup ≠ 0 →
    (∀ d, s.idLatch = some d → d.ia = e.ia + 1) ∧ (∀ f, s.ifLatch = some f → f.ia = e.ia + 2) ∧
    t.ifLatch = none ∧ t.idLatch = none ∧ t.exLatch = none ∧ t.memLatch = some ⟨e.word, e.ia, e.ins, none⟩ ∧
    t.wbLatch = none ∧ t.regs = s.settledRegs ∧ t.memory = s.memory ∧ t.fsup = 1

/-- Derived from R123, as the spec infers in R191: when an instruction completes Execute, the PC register holds min(ia
+ 3, icount). -/
def Obligations.PcRunsAheadOfExecute : Prop :=
  ∀ (s : State) (e : ExLatch), s.Inv → s.exLatch = some e → e.ecnt = 1 →
    s.pc.toNat = min (e.ia.toNat + 3) s.icount.val

/-- Derived from R121, R122 and R125, as the spec infers in R144: the target of a branch that completes Execute in
cycle c, when it is below icount, completes Execute in cycle c + 6: at the end of cycle c + 5 it is in EX with one
cycle left. -/
def Obligations.BranchTargetCompletesSixCyclesLater : Prop :=
  ∀ (s t : State) (e : ExLatch) (i : Instr), s.Inv → s.exLatch = some e → e.ecnt = 1 → step s = .next t →
    t.notFaulted → t.fsup ≠ 0 → t.pc.toNat < t.icount.val → decode (t.memory.read t.pc.toNat) = .ok i →
    ∃ u, steps 5 t = .next u ∧ u.status = .running ∧ u.cycle = t.cycle + 5 ∧
      u.exLatch = some ⟨t.memory.read t.pc.toNat, t.pc, i, 1⟩ ∧ u.memLatch = none ∧ u.wbLatch = none ∧
      u.regs = t.regs ∧ u.memory = t.memory

/-- Derived from R123 and R130, as the spec infers in R144 and R199: a branch that completes Execute in cycle c with a
target at or past icount halts the run at the end of cycle c + 2, with the PC at the target. -/
def Obligations.BranchOutOfTheProgramHalts : Prop :=
  ∀ (s t : State) (e : ExLatch), s.Inv → s.exLatch = some e → e.ecnt = 1 → step s = .next t → t.notFaulted →
    t.fsup ≠ 0 → t.icount.val ≤ t.pc.toNat →
    ∃ u, steps 2 t = .next u ∧ u.status = .halted ∧ u.cycle = t.cycle + 2 ∧ u.pc = t.pc ∧ u.regs = t.regs ∧
      u.memory = t.memory

/-- Derived, as the spec infers in R145 and R240 to R242: the pipeline computes what one instruction at a time
computes. The two cycles that take an instruction from the end of EX through MEM give exactly its sequential effect
on registers and memory, with every older write-back seen; and the next instruction to reach that point, or the PC
where none is in EX, is at the sequential next address. -/
def Obligations.PipelineRunsInstructionsInProgramOrder : Prop :=
  ∀ (s s1 s2 : State) (e : ExLatch), s.Inv → s.exLatch = some e → e.ecnt = 1 → step s = .next s1 →
    s1.notFaulted → step s1 = .next s2 → s2.notFaulted →
    ∃ a, archStep e.ins (s.archView e.ia) = some a ∧ s2.settledRegs = a.regs ∧ s2.memory = a.memory ∧
      (∀ e2, s2.exLatch = some e2 → e2.ia = a.pc ∧ e2.ecnt = 1) ∧ (s2.exLatch = none → s2.pc = a.pc)

/-! ### The host's side (70_reset_and_hazards.md, 30_encoding.md R95 to R99, 60_exceptions.md R216, R217) -/

/-- R39, R232: after reset and the load of an image of at most 2048 words, every piece of state has the value the spec
gives it: word k of the image at address k, 0 everywhere else. -/
def Obligations.LoadedStateIsAsReset : Prop :=
  ∀ image : List Word, image.length ≤ 2048 →
    ∃ s : State, State.loadImage image = .ok s ∧ (∀ i, s.readReg i = 0) ∧ s.pc = 0 ∧
      (∀ (k : Nat) (w : Word), image[k]? = some w → s.memory.read k = w) ∧
      (∀ k, image.length ≤ k → s.memory.read k = 0) ∧
      s.ifLatch = none ∧ s.idLatch = none ∧ s.exLatch = none ∧ s.memLatch = none ∧ s.wbLatch = none ∧
      s.fsup = 0 ∧ s.cycle = 0 ∧ s.icount.val = image.length ∧ s.status = .running

/-- Derived from R217 and R233 (the spec's decision D16): before cycle 1 the host may set any of x[1] to x[31] and any
data word from icount to 2047, and that alone changes; register 0, a program word, or any place once cycle 1 has begun
is refused. That a request out of place is answered with an error, runBegun where cycle 1 has begun and else
notPreloadable, is the model's choice, assumption 14. -/
def Obligations.PreloadSetsOnlyItsPlace : Prop :=
  (∀ (s : State) (i : RegIdx) (v : Word), s.cycle = 0 → i ≠ 0 →
    s.preloadReg i v = .ok { s with regs := s.regs.set i v }) ∧
  (∀ (s : State) (a : Nat) (v : Word), s.cycle = 0 → s.icount.val ≤ a → a < 2048 → s.memory.wf →
    ∃ mem' : Memory, s.preloadWord a v = .ok { s with memory := mem' } ∧
      ∀ b, mem'.read b = if b = a then v else s.memory.read b) ∧
  (∀ (s : State) (i : RegIdx) (a : Nat) (v : Word),
    (s.cycle ≠ 0 → s.preloadReg i v = .error .runBegun ∧ s.preloadWord a v = .error .runBegun) ∧
    (s.cycle = 0 → s.preloadReg 0 v = .error .notPreloadable) ∧
    (s.cycle = 0 → a < s.icount.val ∨ 2048 ≤ a → s.preloadWord a v = .error .notPreloadable))

/-- Derived from R95, R98 and R99 (refusal by the spec's decision D18): the image of a source text is the encoded
accepted lines of that text in source order, so an unknown mnemonic's line leaves no gap, and exactly the lines with
an unknown mnemonic are reported, by number (that form of report is the model's choice, assumption 9); the lines of a
text joined by line feeds give the text back, and no line holds a line feed (that a line ends at a line feed is the
model's choice, assumption 9, which R95 does not say; the clauses that speak of the lines of a text rest on it); a
program of more than 2048 accepted lines, or an image of more than 2048 words, is refused. -/
def Obligations.ImageIsTheAcceptedLinesInOrder : Prop :=
  (∀ (n : Nat) (lines : List (List Char)) (a : Assembly), assembleLines n lines = .ok a →
    a.words = acceptedWords lines ∧
    ∀ k, k ∈ a.skipped ↔ ∃ j l, lines[j]? = some l ∧ k = n + j ∧ parseTokens (lineTokens l) = .unknownMnemonic) ∧
  (∀ source : List Char, List.intercalate ['\n'] (sourceLines source) = source ∧
    ∀ l ∈ sourceLines source, '\n' ∉ l) ∧
  (∀ (source : List Char) (a : Assembly), assemble source = .ok a →
    a.words = acceptedWords (sourceLines source) ∧ a.words.length ≤ 2048 ∧
    ∀ k, k ∈ a.skipped ↔
      ∃ j l, (sourceLines source)[j]? = some l ∧ k = 1 + j ∧ parseTokens (lineTokens l) = .unknownMnemonic) ∧
  (∀ source : List Char, 2048 < (acceptedWords (sourceLines source)).length → ∃ e, assemble source = .error e) ∧
  (∀ image : List Word, 2048 < image.length → State.loadImage image = .error .programTooLong)

/-- Derived from R132 and R217 (the spec's decision D28): a run cut short by the host's cap is neither halted nor
faulted; a run is reported halted, or faulted with its record, exactly when its own cycles reach that state within
the cap; and from a state of the invariant the driver never stops for want of an outcome. -/
def Obligations.CutShortRunsAreStillRunning : Prop :=
  (∀ (n : Nat) (s t : State),
    (drive n s = .outOfFuel t ↔ steps n s = .next t ∧ t.status = .running) ∧
    (drive n s = .halted t ↔ ∃ k ≤ n, steps k s = .next t ∧ t.status = .halted) ∧
    (∀ r, drive n s = .faulted r t ↔ ∃ k ≤ n, steps k s = .next t ∧ t.status = .faulted r)) ∧
  (∀ (n : Nat) (s t : State), s.Inv → drive n s ≠ .stopped t)

/-- Derived from R97 and R99 (the spec's decisions D18 and D19): a source text is refused exactly when a line of it is
too long or has bad operands, or more than 2048 lines are accepted. That a long line refuses it whatever the line
holds, how its bytes are counted, and that a line ends at a line feed, is the model's choice, assumption 9. -/
def Obligations.SourceIsRefusedExactlyForBadLines : Prop :=
  ∀ source : List Char,
    (∃ e, assemble source = .error e) ↔
      (∃ l ∈ sourceLines source, refusesProgram l) ∨ 2048 < (acceptedWords (sourceLines source)).length

/-- Derived from R76, R97 and R234: the loader encodes each entry and loads the words in order; every record the
front-end accepts has its fields in range, so every program it assembles is loaded. That a record with a field out of
range refuses the program is the model's choice, assumption 15. -/
def Obligations.AssembledProgramsAreLoaded : Prop :=
  (∀ program : List Instr, (∀ i ∈ program, i.wellFormed = true) →
    State.loadProgram program = State.loadImage (program.map encode)) ∧
  (∀ (program : List Instr) (i : Instr), i ∈ program → i.wellFormed = false →
    State.loadProgram program = .error .fieldOutOfRange) ∧
  (∀ (line : List Char) (i : Instr), parseTokens (lineTokens line) = .accepted i → i.wellFormed = true) ∧
  (∀ (source : List Char) (a : Assembly), assemble source = .ok a →
    ∃ (program : List Instr) (s : State),
      a.words = program.map encode ∧ State.loadProgram program = .ok s ∧ State.loadImage a.words = .ok s)

/-- Derived from R216 (the observation point by the spec's decision D1): the host observes the whole state. Two states
that look alike differ at most in the model's own field that names the acting stage (assumption 1), which is not
observed. The premises are the part of the invariant about register 0 (R21). -/
def Obligations.ObservationShowsTheWholeState : Prop :=
  (∀ s t : State, s.regs.get 0 = 0 → t.regs.get 0 = 0 → s.observe = t.observe → t = s.actAt t.acting) ∧
  (∀ (s : State) (stage : ActingStage), (s.actAt stage).observe = s.observe) ∧
  (∀ (s : State) (i : RegIdx), s.observe.registers[i.val]? = some (s.readReg i)) ∧
  (∀ (s : State) (a : Fin 2048), s.observe.word a = s.memory.read a.val)
end

