-- ==== Sys2Proof/Laws/State.lean ====
section
/-! SUPPORT. One lemma per field per update of the state: each update changes the fields it names and no other. -/

namespace Sys2Proof.Machine

section
variable (s : State)

/-! ### `State.actAt` -/

@[simp] theorem State.actAt_regs (k : ActingStage) : (s.actAt k).regs = s.regs := rfl
@[simp] theorem State.actAt_pc (k : ActingStage) : (s.actAt k).pc = s.pc := rfl
@[simp] theorem State.actAt_memory (k : ActingStage) : (s.actAt k).memory = s.memory := rfl
@[simp] theorem State.actAt_ifLatch (k : ActingStage) : (s.actAt k).ifLatch = s.ifLatch := rfl
@[simp] theorem State.actAt_idLatch (k : ActingStage) : (s.actAt k).idLatch = s.idLatch := rfl
@[simp] theorem State.actAt_exLatch (k : ActingStage) : (s.actAt k).exLatch = s.exLatch := rfl
@[simp] theorem State.actAt_memLatch (k : ActingStage) : (s.actAt k).memLatch = s.memLatch := rfl
@[simp] theorem State.actAt_wbLatch (k : ActingStage) : (s.actAt k).wbLatch = s.wbLatch := rfl
@[simp] theorem State.actAt_fsup (k : ActingStage) : (s.actAt k).fsup = s.fsup := rfl
@[simp] theorem State.actAt_cycle (k : ActingStage) : (s.actAt k).cycle = s.cycle := rfl
@[simp] theorem State.actAt_icount (k : ActingStage) : (s.actAt k).icount = s.icount := rfl
@[simp] theorem State.actAt_status (k : ActingStage) : (s.actAt k).status = s.status := rfl
@[simp] theorem State.actAt_acting (k : ActingStage) : (s.actAt k).acting = k := rfl

/-! ### `State.beginCycle` -/

@[simp] theorem State.beginCycle_regs : (s.beginCycle).regs = s.regs := rfl
@[simp] theorem State.beginCycle_pc : (s.beginCycle).pc = s.pc := rfl
@[simp] theorem State.beginCycle_memory : (s.beginCycle).memory = s.memory := rfl
@[simp] theorem State.beginCycle_ifLatch : (s.beginCycle).ifLatch = s.ifLatch := rfl
@[simp] theorem State.beginCycle_idLatch : (s.beginCycle).idLatch = s.idLatch := rfl
@[simp] theorem State.beginCycle_exLatch : (s.beginCycle).exLatch = s.exLatch := rfl
@[simp] theorem State.beginCycle_memLatch : (s.beginCycle).memLatch = s.memLatch := rfl
@[simp] theorem State.beginCycle_wbLatch : (s.beginCycle).wbLatch = s.wbLatch := rfl
@[simp] theorem State.beginCycle_fsup : (s.beginCycle).fsup = s.fsup := rfl
@[simp] theorem State.beginCycle_cycle : (s.beginCycle).cycle = s.cycle + 1 := rfl
@[simp] theorem State.beginCycle_icount : (s.beginCycle).icount = s.icount := rfl
@[simp] theorem State.beginCycle_status : (s.beginCycle).status = s.status := rfl
@[simp] theorem State.beginCycle_acting : (s.beginCycle).acting = s.acting := rfl

/-! ### `State.passToMem` -/

@[simp] theorem State.passToMem_regs (e : ExLatch) (v : Option Word) : (s.passToMem e v).regs = s.regs := rfl
@[simp] theorem State.passToMem_pc (e : ExLatch) (v : Option Word) : (s.passToMem e v).pc = s.pc := rfl
@[simp] theorem State.passToMem_memory (e : ExLatch) (v : Option Word) : (s.passToMem e v).memory = s.memory := rfl
@[simp] theorem State.passToMem_ifLatch (e : ExLatch) (v : Option Word) : (s.passToMem e v).ifLatch = s.ifLatch := rfl
@[simp] theorem State.passToMem_idLatch (e : ExLatch) (v : Option Word) : (s.passToMem e v).idLatch = s.idLatch := rfl
@[simp] theorem State.passToMem_exLatch (e : ExLatch) (v : Option Word) : (s.passToMem e v).exLatch = none := rfl
@[simp] theorem State.passToMem_memLatch (e : ExLatch) (v : Option Word) : (s.passToMem e v).memLatch = some ⟨e.word, e.ia, e.ins, v⟩ := rfl
@[simp] theorem State.passToMem_wbLatch (e : ExLatch) (v : Option Word) : (s.passToMem e v).wbLatch = s.wbLatch := rfl
@[simp] theorem State.passToMem_fsup (e : ExLatch) (v : Option Word) : (s.passToMem e v).fsup = s.fsup := rfl
@[simp] theorem State.passToMem_cycle (e : ExLatch) (v : Option Word) : (s.passToMem e v).cycle = s.cycle := rfl
@[simp] theorem State.passToMem_icount (e : ExLatch) (v : Option Word) : (s.passToMem e v).icount = s.icount := rfl
@[simp] theorem State.passToMem_status (e : ExLatch) (v : Option Word) : (s.passToMem e v).status = s.status := rfl
@[simp] theorem State.passToMem_acting (e : ExLatch) (v : Option Word) : (s.passToMem e v).acting = s.acting := rfl

/-! ### `State.passToWb` -/

@[simp] theorem State.passToWb_regs (m : MemLatch) (v : Option Word) : (s.passToWb m v).regs = s.regs := rfl
@[simp] theorem State.passToWb_pc (m : MemLatch) (v : Option Word) : (s.passToWb m v).pc = s.pc := rfl
@[simp] theorem State.passToWb_memory (m : MemLatch) (v : Option Word) : (s.passToWb m v).memory = s.memory := rfl
@[simp] theorem State.passToWb_ifLatch (m : MemLatch) (v : Option Word) : (s.passToWb m v).ifLatch = s.ifLatch := rfl
@[simp] theorem State.passToWb_idLatch (m : MemLatch) (v : Option Word) : (s.passToWb m v).idLatch = s.idLatch := rfl
@[simp] theorem State.passToWb_exLatch (m : MemLatch) (v : Option Word) : (s.passToWb m v).exLatch = s.exLatch := rfl
@[simp] theorem State.passToWb_memLatch (m : MemLatch) (v : Option Word) : (s.passToWb m v).memLatch = none := rfl
@[simp] theorem State.passToWb_wbLatch (m : MemLatch) (v : Option Word) : (s.passToWb m v).wbLatch = some ⟨m.word, m.ia, m.ins, m.alu, v⟩ := rfl
@[simp] theorem State.passToWb_fsup (m : MemLatch) (v : Option Word) : (s.passToWb m v).fsup = s.fsup := rfl
@[simp] theorem State.passToWb_cycle (m : MemLatch) (v : Option Word) : (s.passToWb m v).cycle = s.cycle := rfl
@[simp] theorem State.passToWb_icount (m : MemLatch) (v : Option Word) : (s.passToWb m v).icount = s.icount := rfl
@[simp] theorem State.passToWb_status (m : MemLatch) (v : Option Word) : (s.passToWb m v).status = s.status := rfl
@[simp] theorem State.passToWb_acting (m : MemLatch) (v : Option Word) : (s.passToWb m v).acting = s.acting := rfl

/-! ### `State.retire` -/

@[simp] theorem State.retire_regs : (s.retire).regs = s.regs := rfl
@[simp] theorem State.retire_pc : (s.retire).pc = s.pc := rfl
@[simp] theorem State.retire_memory : (s.retire).memory = s.memory := rfl
@[simp] theorem State.retire_ifLatch : (s.retire).ifLatch = s.ifLatch := rfl
@[simp] theorem State.retire_idLatch : (s.retire).idLatch = s.idLatch := rfl
@[simp] theorem State.retire_exLatch : (s.retire).exLatch = s.exLatch := rfl
@[simp] theorem State.retire_memLatch : (s.retire).memLatch = s.memLatch := rfl
@[simp] theorem State.retire_wbLatch : (s.retire).wbLatch = none := rfl
@[simp] theorem State.retire_fsup : (s.retire).fsup = s.fsup := rfl
@[simp] theorem State.retire_cycle : (s.retire).cycle = s.cycle := rfl
@[simp] theorem State.retire_icount : (s.retire).icount = s.icount := rfl
@[simp] theorem State.retire_status : (s.retire).status = s.status := rfl
@[simp] theorem State.retire_acting : (s.retire).acting = s.acting := rfl

/-! ### `State.redirect` -/

@[simp] theorem State.redirect_regs (t : Word) : (s.redirect t).regs = s.regs := rfl
@[simp] theorem State.redirect_pc (t : Word) : (s.redirect t).pc = t := rfl
@[simp] theorem State.redirect_memory (t : Word) : (s.redirect t).memory = s.memory := rfl
@[simp] theorem State.redirect_ifLatch (t : Word) : (s.redirect t).ifLatch = none := rfl
@[simp] theorem State.redirect_idLatch (t : Word) : (s.redirect t).idLatch = none := rfl
@[simp] theorem State.redirect_exLatch (t : Word) : (s.redirect t).exLatch = s.exLatch := rfl
@[simp] theorem State.redirect_memLatch (t : Word) : (s.redirect t).memLatch = s.memLatch := rfl
@[simp] theorem State.redirect_wbLatch (t : Word) : (s.redirect t).wbLatch = s.wbLatch := rfl
@[simp] theorem State.redirect_fsup (t : Word) : (s.redirect t).fsup = Config.fetchSuppress := rfl
@[simp] theorem State.redirect_cycle (t : Word) : (s.redirect t).cycle = s.cycle := rfl
@[simp] theorem State.redirect_icount (t : Word) : (s.redirect t).icount = s.icount := rfl
@[simp] theorem State.redirect_status (t : Word) : (s.redirect t).status = s.status := rfl
@[simp] theorem State.redirect_acting (t : Word) : (s.redirect t).acting = s.acting := rfl

/-! ### `State.enterFault` -/

@[simp] theorem State.enterFault_regs (r : FaultRecord) : (s.enterFault r).regs = s.regs := rfl
@[simp] theorem State.enterFault_pc (r : FaultRecord) : (s.enterFault r).pc = s.pc := rfl
@[simp] theorem State.enterFault_memory (r : FaultRecord) : (s.enterFault r).memory = s.memory := rfl
@[simp] theorem State.enterFault_ifLatch (r : FaultRecord) : (s.enterFault r).ifLatch = s.ifLatch := rfl
@[simp] theorem State.enterFault_idLatch (r : FaultRecord) : (s.enterFault r).idLatch = s.idLatch := rfl
@[simp] theorem State.enterFault_exLatch (r : FaultRecord) : (s.enterFault r).exLatch = s.exLatch := rfl
@[simp] theorem State.enterFault_memLatch (r : FaultRecord) : (s.enterFault r).memLatch = s.memLatch := rfl
@[simp] theorem State.enterFault_wbLatch (r : FaultRecord) : (s.enterFault r).wbLatch = s.wbLatch := rfl
@[simp] theorem State.enterFault_fsup (r : FaultRecord) : (s.enterFault r).fsup = s.fsup := rfl
@[simp] theorem State.enterFault_cycle (r : FaultRecord) : (s.enterFault r).cycle = s.cycle := rfl
@[simp] theorem State.enterFault_icount (r : FaultRecord) : (s.enterFault r).icount = s.icount := rfl
@[simp] theorem State.enterFault_status (r : FaultRecord) : (s.enterFault r).status = .faulted r := rfl
@[simp] theorem State.enterFault_acting (r : FaultRecord) : (s.enterFault r).acting = s.acting := rfl

/-! ### `State.countExecute` -/

@[simp] theorem State.countExecute_regs (e : ExLatch) : (s.countExecute e).regs = s.regs := rfl
@[simp] theorem State.countExecute_pc (e : ExLatch) : (s.countExecute e).pc = s.pc := rfl
@[simp] theorem State.countExecute_memory (e : ExLatch) : (s.countExecute e).memory = s.memory := rfl
@[simp] theorem State.countExecute_ifLatch (e : ExLatch) : (s.countExecute e).ifLatch = s.ifLatch := rfl
@[simp] theorem State.countExecute_idLatch (e : ExLatch) : (s.countExecute e).idLatch = s.idLatch := rfl
@[simp] theorem State.countExecute_exLatch (e : ExLatch) : (s.countExecute e).exLatch = some { e with ecnt := countDown e.ecnt } := rfl
@[simp] theorem State.countExecute_memLatch (e : ExLatch) : (s.countExecute e).memLatch = s.memLatch := rfl
@[simp] theorem State.countExecute_wbLatch (e : ExLatch) : (s.countExecute e).wbLatch = s.wbLatch := rfl
@[simp] theorem State.countExecute_fsup (e : ExLatch) : (s.countExecute e).fsup = s.fsup := rfl
@[simp] theorem State.countExecute_cycle (e : ExLatch) : (s.countExecute e).cycle = s.cycle := rfl
@[simp] theorem State.countExecute_icount (e : ExLatch) : (s.countExecute e).icount = s.icount := rfl
@[simp] theorem State.countExecute_status (e : ExLatch) : (s.countExecute e).status = s.status := rfl
@[simp] theorem State.countExecute_acting (e : ExLatch) : (s.countExecute e).acting = s.acting := rfl

/-! ### `State.countDecode` -/

@[simp] theorem State.countDecode_regs (d : IdLatch) : (s.countDecode d).regs = s.regs := rfl
@[simp] theorem State.countDecode_pc (d : IdLatch) : (s.countDecode d).pc = s.pc := rfl
@[simp] theorem State.countDecode_memory (d : IdLatch) : (s.countDecode d).memory = s.memory := rfl
@[simp] theorem State.countDecode_ifLatch (d : IdLatch) : (s.countDecode d).ifLatch = s.ifLatch := rfl
@[simp] theorem State.countDecode_idLatch (d : IdLatch) : (s.countDecode d).idLatch = some { d with dcnt := countDown d.dcnt } := rfl
@[simp] theorem State.countDecode_exLatch (d : IdLatch) : (s.countDecode d).exLatch = s.exLatch := rfl
@[simp] theorem State.countDecode_memLatch (d : IdLatch) : (s.countDecode d).memLatch = s.memLatch := rfl
@[simp] theorem State.countDecode_wbLatch (d : IdLatch) : (s.countDecode d).wbLatch = s.wbLatch := rfl
@[simp] theorem State.countDecode_fsup (d : IdLatch) : (s.countDecode d).fsup = s.fsup := rfl
@[simp] theorem State.countDecode_cycle (d : IdLatch) : (s.countDecode d).cycle = s.cycle := rfl
@[simp] theorem State.countDecode_icount (d : IdLatch) : (s.countDecode d).icount = s.icount := rfl
@[simp] theorem State.countDecode_status (d : IdLatch) : (s.countDecode d).status = s.status := rfl
@[simp] theorem State.countDecode_acting (d : IdLatch) : (s.countDecode d).acting = s.acting := rfl

/-! ### `State.passToEx` -/

@[simp] theorem State.passToEx_regs (d : IdLatch) (ins : Instr) : (s.passToEx d ins).regs = s.regs := rfl
@[simp] theorem State.passToEx_pc (d : IdLatch) (ins : Instr) : (s.passToEx d ins).pc = s.pc := rfl
@[simp] theorem State.passToEx_memory (d : IdLatch) (ins : Instr) : (s.passToEx d ins).memory = s.memory := rfl
@[simp] theorem State.passToEx_ifLatch (d : IdLatch) (ins : Instr) : (s.passToEx d ins).ifLatch = s.ifLatch := rfl
@[simp] theorem State.passToEx_idLatch (d : IdLatch) (ins : Instr) : (s.passToEx d ins).idLatch = none := rfl
@[simp] theorem State.passToEx_exLatch (d : IdLatch) (ins : Instr) : (s.passToEx d ins).exLatch = some ⟨d.word, d.ia, ins, Config.exLat⟩ := rfl
@[simp] theorem State.passToEx_memLatch (d : IdLatch) (ins : Instr) : (s.passToEx d ins).memLatch = s.memLatch := rfl
@[simp] theorem State.passToEx_wbLatch (d : IdLatch) (ins : Instr) : (s.passToEx d ins).wbLatch = s.wbLatch := rfl
@[simp] theorem State.passToEx_fsup (d : IdLatch) (ins : Instr) : (s.passToEx d ins).fsup = s.fsup := rfl
@[simp] theorem State.passToEx_cycle (d : IdLatch) (ins : Instr) : (s.passToEx d ins).cycle = s.cycle := rfl
@[simp] theorem State.passToEx_icount (d : IdLatch) (ins : Instr) : (s.passToEx d ins).icount = s.icount := rfl
@[simp] theorem State.passToEx_status (d : IdLatch) (ins : Instr) : (s.passToEx d ins).status = s.status := rfl
@[simp] theorem State.passToEx_acting (d : IdLatch) (ins : Instr) : (s.passToEx d ins).acting = s.acting := rfl

/-! ### `State.fetchWord` -/

@[simp] theorem State.fetchWord_regs : (s.fetchWord).regs = s.regs := rfl
@[simp] theorem State.fetchWord_pc : (s.fetchWord).pc = s.pc + 1 := rfl
@[simp] theorem State.fetchWord_memory : (s.fetchWord).memory = s.memory := rfl
@[simp] theorem State.fetchWord_ifLatch : (s.fetchWord).ifLatch = some ⟨s.memory.read s.pc.toNat, s.pc⟩ := rfl
@[simp] theorem State.fetchWord_idLatch : (s.fetchWord).idLatch = s.idLatch := rfl
@[simp] theorem State.fetchWord_exLatch : (s.fetchWord).exLatch = s.exLatch := rfl
@[simp] theorem State.fetchWord_memLatch : (s.fetchWord).memLatch = s.memLatch := rfl
@[simp] theorem State.fetchWord_wbLatch : (s.fetchWord).wbLatch = s.wbLatch := rfl
@[simp] theorem State.fetchWord_fsup : (s.fetchWord).fsup = s.fsup := rfl
@[simp] theorem State.fetchWord_cycle : (s.fetchWord).cycle = s.cycle := rfl
@[simp] theorem State.fetchWord_icount : (s.fetchWord).icount = s.icount := rfl
@[simp] theorem State.fetchWord_status : (s.fetchWord).status = s.status := rfl
@[simp] theorem State.fetchWord_acting : (s.fetchWord).acting = s.acting := rfl

/-! ### `State.writeReg` -/

@[simp] theorem State.writeReg_regs (i : RegIdx) (v : Word) :
    (s.writeReg i v).regs = if i = 0 then s.regs else s.regs.set i v := by
  unfold State.writeReg; split <;> rfl
@[simp] theorem State.writeReg_pc (i : RegIdx) (v : Word) : (s.writeReg i v).pc = s.pc := by
  unfold State.writeReg; split <;> rfl
@[simp] theorem State.writeReg_memory (i : RegIdx) (v : Word) : (s.writeReg i v).memory = s.memory := by
  unfold State.writeReg; split <;> rfl
@[simp] theorem State.writeReg_ifLatch (i : RegIdx) (v : Word) : (s.writeReg i v).ifLatch = s.ifLatch := by
  unfold State.writeReg; split <;> rfl
@[simp] theorem State.writeReg_idLatch (i : RegIdx) (v : Word) : (s.writeReg i v).idLatch = s.idLatch := by
  unfold State.writeReg; split <;> rfl
@[simp] theorem State.writeReg_exLatch (i : RegIdx) (v : Word) : (s.writeReg i v).exLatch = s.exLatch := by
  unfold State.writeReg; split <;> rfl
@[simp] theorem State.writeReg_memLatch (i : RegIdx) (v : Word) : (s.writeReg i v).memLatch = s.memLatch := by
  unfold State.writeReg; split <;> rfl
@[simp] theorem State.writeReg_wbLatch (i : RegIdx) (v : Word) : (s.writeReg i v).wbLatch = s.wbLatch := by
  unfold State.writeReg; split <;> rfl
@[simp] theorem State.writeReg_fsup (i : RegIdx) (v : Word) : (s.writeReg i v).fsup = s.fsup := by
  unfold State.writeReg; split <;> rfl
@[simp] theorem State.writeReg_cycle (i : RegIdx) (v : Word) : (s.writeReg i v).cycle = s.cycle := by
  unfold State.writeReg; split <;> rfl
@[simp] theorem State.writeReg_icount (i : RegIdx) (v : Word) : (s.writeReg i v).icount = s.icount := by
  unfold State.writeReg; split <;> rfl
@[simp] theorem State.writeReg_status (i : RegIdx) (v : Word) : (s.writeReg i v).status = s.status := by
  unfold State.writeReg; split <;> rfl
@[simp] theorem State.writeReg_acting (i : RegIdx) (v : Word) : (s.writeReg i v).acting = s.acting := by
  unfold State.writeReg; split <;> rfl

/-! ### Register reads depend on the register file alone -/

theorem State.readReg_congr (t : State) (h : t.regs = s.regs) (i : RegIdx) : t.readReg i = s.readReg i := by
  simp only [State.readReg, h]

@[simp] theorem State.actAt_readReg (k : ActingStage) (i : RegIdx) : (s.actAt k).readReg i = s.readReg i := rfl
@[simp] theorem State.beginCycle_readReg (i : RegIdx) : (s.beginCycle).readReg i = s.readReg i := rfl
@[simp] theorem State.passToMem_readReg (e : ExLatch) (v : Option Word) (i : RegIdx) : (s.passToMem e v).readReg i = s.readReg i := rfl
@[simp] theorem State.passToWb_readReg (m : MemLatch) (v : Option Word) (i : RegIdx) : (s.passToWb m v).readReg i = s.readReg i := rfl
@[simp] theorem State.retire_readReg (i : RegIdx) : (s.retire).readReg i = s.readReg i := rfl
@[simp] theorem State.redirect_readReg (t : Word) (i : RegIdx) : (s.redirect t).readReg i = s.readReg i := rfl
@[simp] theorem State.enterFault_readReg (r : FaultRecord) (i : RegIdx) : (s.enterFault r).readReg i = s.readReg i := rfl
@[simp] theorem State.countExecute_readReg (e : ExLatch) (i : RegIdx) : (s.countExecute e).readReg i = s.readReg i := rfl
@[simp] theorem State.countDecode_readReg (d : IdLatch) (i : RegIdx) : (s.countDecode d).readReg i = s.readReg i := rfl
@[simp] theorem State.passToEx_readReg (d : IdLatch) (ins : Instr) (i : RegIdx) : (s.passToEx d ins).readReg i = s.readReg i := rfl
@[simp] theorem State.fetchWord_readReg (i : RegIdx) : (s.fetchWord).readReg i = s.readReg i := rfl

/-! ### Independent updates commute -/

@[simp] theorem State.actAt_actAt (j k : ActingStage) : (s.actAt j).actAt k = s.actAt k := rfl

end

end Sys2Proof.Machine
end

