-- ==== Sys2Proof/Laws/Ops.lean ====
section
/-! SUPPORT. One lemma for each shared operation that says everything it can do. -/

namespace Sys2Proof.Machine

/-! ### Sequencing and committing -/

@[simp] theorem andThen_next (s : State) (f : State → Out) : andThen (.next s) f = f s := rfl
@[simp] theorem andThen_fault (r : Fault) (f : State → Out) : andThen (.fault r) f = .fault r := rfl
@[simp] theorem andThen_refused (r : Refusal) (f : State → Out) : andThen (.refused r) f = .refused r := rfl

/-- A sequence answers a next state exactly when both parts do. -/
theorem andThen_eq_next {o : Out} {f : State → Out} {t : State} :
    andThen o f = .next t ↔ ∃ s, o = .next s ∧ f s = .next t := by
  cases o <;> simp

/-- A sequence faults when its first part does, or when its second does after it. -/
theorem andThen_eq_fault {o : Out} {f : State → Out} {r : Fault} :
    andThen o f = .fault r ↔ o = .fault r ∨ ∃ s, o = .next s ∧ f s = .fault r := by
  cases o <;> simp

/-- Committing a cycle answers its next state, or the faulted state of its record (R204). -/
theorem commit_eq_next {s t : State} {o : Out} :
    commit s o = .next t ↔ o = .next t ∨ ∃ r, o = .fault (.raised r) ∧ t = s.enterFault r := by
  cases o with
  | next u => simp [commit]
  | fault r => cases r <;> simp [commit, eq_comm (a := t)]
  | refused r => simp [commit]

/-! ### Memory access (R52, R53) -/

/-- A load answers exactly when the address is below 2048, and then the word there. -/
theorem State.memRead_eq_some {s : State} {a v : Word} :
    s.memRead a = some v ↔ inBounds a = true ∧ v = s.memory.read a.toNat := by
  cases hb : inBounds a <;> simp only [State.memRead, hb] <;> simp
  exact eq_comm

/-- A load raises the fault exactly when the address is 2048 or more. -/
theorem State.memRead_eq_none {s : State} {a : Word} : s.memRead a = none ↔ inBounds a = false := by
  unfold State.memRead
  split <;> simp_all

/-- A store answers exactly when the address is below 2048, and changes the memory alone. -/
theorem State.memWrite_eq_some {s t : State} {a v : Word} :
    s.memWrite a v = some t ↔ inBounds a = true ∧ t = { s with memory := s.memory.write a.toNat v } := by
  cases hb : inBounds a <;> simp only [State.memWrite, hb] <;> simp
  exact eq_comm

/-- A store raises the fault exactly when the address is 2048 or more. -/
theorem State.memWrite_eq_none {s : State} {a v : Word} : s.memWrite a v = none ↔ inBounds a = false := by
  unfold State.memWrite
  split <;> simp_all

theorem inBounds_iff {a : Word} : inBounds a = true ↔ a.toNat < 2048 := by simp [inBounds]

/-! ### The acting stage -/

/-- An instruction answers a next state by doing nothing in an empty stage, or what the acting stage asks. -/
theorem State.inStage_eq_next {s t : State} {fe : ExLatch → Out} {fm : MemLatch → Out} {fb : WbLatch → Out}
    (h : s.inStage fe fm fb = .next t) :
    t = s ∨ (∃ e, s.acting = .execute ∧ s.exLatch = some e ∧ fe e = .next t) ∨
      (∃ m, s.acting = .memory ∧ s.memLatch = some m ∧ fm m = .next t) ∨
      (∃ b, s.acting = .writeBack ∧ s.wbLatch = some b ∧ fb b = .next t) := by
  unfold State.inStage at h
  split at h <;> split at h <;> simp_all

theorem State.inStage_execute {s : State} {e : ExLatch} {fe : ExLatch → Out} {fm : MemLatch → Out}
    {fb : WbLatch → Out} (ha : s.acting = .execute) (he : s.exLatch = some e) : s.inStage fe fm fb = fe e := by
  simp [State.inStage, ha, he]

theorem State.inStage_memory {s : State} {m : MemLatch} {fe : ExLatch → Out} {fm : MemLatch → Out}
    {fb : WbLatch → Out} (ha : s.acting = .memory) (hm : s.memLatch = some m) : s.inStage fe fm fb = fm m := by
  simp [State.inStage, ha, hm]

theorem State.inStage_writeBack {s : State} {b : WbLatch} {fe : ExLatch → Out} {fm : MemLatch → Out}
    {fb : WbLatch → Out} (ha : s.acting = .writeBack) (hb : s.wbLatch = some b) : s.inStage fe fm fb = fb b := by
  simp [State.inStage, ha, hb]

/-! ### What a stage does with its latch -/

/-- A taken branch answers a next state exactly when its target is below 2048 (R196). -/
theorem State.finishTaken_eq_next {s t : State} {e : ExLatch} {a : Word} :
    s.finishTaken e a = .next t ↔ inBounds a = true ∧ t = (s.redirect a).passToMem e none := by
  cases hb : inBounds a <;> simp only [State.finishTaken, State.raisePc, hb] <;> simp
  exact eq_comm

/-- A load in MEM answers a next state exactly when it has an address below 2048 (R180, R182). -/
theorem State.memLoad_eq_next {s t : State} {m : MemLatch} :
    s.memLoad m = .next t ↔
      ∃ a, m.alu = some a ∧ inBounds a = true ∧ t = s.passToWb m (some (s.memory.read a.toNat)) := by
  unfold State.memLoad
  cases hm : m.alu with
  | none => simp
  | some a =>
    cases hb : inBounds a <;> simp [State.memRead, State.raiseMem, hb]
    exact eq_comm

/-- A store in MEM answers a next state exactly when it has an address below 2048, and changes that word alone
(R184, R186). -/
theorem State.memStore_eq_next {s t : State} {m : MemLatch} {r1 : RegIdx} :
    s.memStore m r1 = .next t ↔
      ∃ a, m.alu = some a ∧ inBounds a = true ∧
        t = ({ s with memory := s.memory.write a.toNat (s.readReg r1) } : State).passToWb m none := by
  unfold State.memStore
  cases hm : m.alu with
  | none => simp
  | some a =>
    cases hb : inBounds a <;> simp [State.memWrite, State.raiseMem, hb]
    exact eq_comm

/-- Writing back an ALU result answers a next state exactly when the latch carries one (R104). -/
theorem State.wbAlu_eq_next {s t : State} {b : WbLatch} {r1 : RegIdx} :
    s.wbAlu b r1 = .next t ↔ ∃ v, b.alu = some v ∧ t = (s.writeReg r1 v).retire := by
  unfold State.wbAlu
  cases b.alu <;> simp [eq_comm (a := t)]

/-- Writing back a loaded word answers a next state exactly when the latch carries one (R104). -/
theorem State.wbMdr_eq_next {s t : State} {b : WbLatch} {r1 : RegIdx} :
    s.wbMdr b r1 = .next t ↔ ∃ v, b.mdr = some v ∧ t = (s.writeReg r1 v).retire := by
  unfold State.wbMdr
  cases b.mdr <;> simp [eq_comm (a := t)]

end Sys2Proof.Machine
end

