-- ==== Sys2Proof/Laws/Exec.lean ====
section
/-! SUPPORT. What `exec` can answer in each of the three stages, said once for all instructions. -/

namespace Sys2Proof.Machine

variable {i : Instr} {s t : State}

/-- Completing Execute moves the instruction to MEM, with a result unless it is JEQ or JMP; a JEQ or JMP that is taken
redirects as well (R108, R110). -/
theorem exec_execute_next {e : ExLatch} (ha : s.acting = .execute) (he : s.exLatch = some e)
    (h : exec i s = .next t) :
    (∃ v, v.isSome = carriesAlu i ∧ t = s.passToMem e v) ∨
      (∃ a, inBounds a = true ∧ carriesAlu i = false ∧ t = (s.redirect a).passToMem e none) := by
  cases i <;>
    simp only [exec, execAdd, execSub, execMul, execMovi, execJeq, execAnd, execXori, execJmp, execLsl, execLsr,
      execMovr, execMovm, State.inStage_execute ha he, State.finishAlu, Host.Outcome.next.injEq] at h
  case jeq =>
    split at h
    · obtain ⟨hb, rfl⟩ := State.finishTaken_eq_next.1 h
      exact .inr ⟨_, hb, rfl, rfl⟩
    · simp only [State.finishNotTaken, Host.Outcome.next.injEq] at h
      exact .inl ⟨none, rfl, h.symm⟩
  case jmp =>
    obtain ⟨hb, rfl⟩ := State.finishTaken_eq_next.1 h
    exact .inr ⟨_, hb, rfl, rfl⟩
  all_goals exact .inl ⟨some _, rfl, h.symm⟩

/-- The Memory stage moves the instruction to WB; only MOVR carries a memory result, and only MOVM changes memory, at
its own address (R106, R182, R186). -/
theorem exec_memory_next {m : MemLatch} (ha : s.acting = .memory) (hm : s.memLatch = some m)
    (h : exec i s = .next t) :
    (carriesMdr i = false ∧ (∀ r1 r2 imm, i ≠ .movm r1 r2 imm) ∧ t = s.passToWb m none) ∨
      (carriesMdr i = true ∧ ∃ a, m.alu = some a ∧ inBounds a = true ∧
        t = s.passToWb m (some (s.memory.read a.toNat))) ∨
      (carriesMdr i = false ∧ ∃ r1 r2 imm a, i = .movm r1 r2 imm ∧ m.alu = some a ∧ inBounds a = true ∧
        t = ({ s with memory := s.memory.write a.toNat (s.readReg r1) } : State).passToWb m none) := by
  cases i <;>
    simp only [exec, execAdd, execSub, execMul, execMovi, execJeq, execAnd, execXori, execJmp, execLsl, execLsr,
      execMovr, execMovm, State.inStage_memory ha hm, State.memPass, Host.Outcome.next.injEq] at h
  case movr =>
    exact .inr (.inl ⟨rfl, State.memLoad_eq_next.1 h⟩)
  case movm r1 r2 imm =>
    obtain ⟨a, hal, hb, rfl⟩ := State.memStore_eq_next.1 h
    exact .inr (.inr ⟨rfl, r1, r2, imm, a, rfl, hal, hb, rfl⟩)
  all_goals exact .inl ⟨rfl, by simp, h.symm⟩

/-- Write-back empties WB and does what the table of R105 says. -/
theorem exec_writeBack_next {b : WbLatch} (ha : s.acting = .writeBack) (hb : s.wbLatch = some b)
    (h : exec i s = .next t) :
    (∃ r v, (wbAction i = .writeAlu r ∧ b.alu = some v ∨ wbAction i = .writeMdr r ∧ b.mdr = some v) ∧
        t = (s.writeReg r v).retire) ∨
      (wbAction i = .noWrite ∧ t = s.retire) := by
  cases i <;>
    simp only [exec, execAdd, execSub, execMul, execMovi, execJeq, execAnd, execXori, execJmp, execLsl, execLsr,
      execMovr, execMovm, State.inStage_writeBack ha hb, State.wbNone, Host.Outcome.next.injEq] at h
  case movr =>
    obtain ⟨v, hv, rfl⟩ := State.wbMdr_eq_next.1 h
    exact .inl ⟨_, v, .inr ⟨rfl, hv⟩, rfl⟩
  case jeq => exact .inr ⟨rfl, h.symm⟩
  case jmp => exact .inr ⟨rfl, h.symm⟩
  case movm => exact .inr ⟨rfl, h.symm⟩
  all_goals
    obtain ⟨v, hv, rfl⟩ := State.wbAlu_eq_next.1 h
    exact .inl ⟨_, v, .inl ⟨rfl, hv⟩, rfl⟩

/-- A fault an instruction raises carries a record of the cycle of the working copy; it is never the fault of a halted
machine (R200). -/
theorem exec_fault {r : Fault} (h : exec i s = .fault r) : ∃ q, r = .raised q ∧ q.cycle = s.cycle := by
  cases i <;>
    simp only [exec, execAdd, execSub, execMul, execMovi, execJeq, execAnd, execXori, execJmp, execLsl, execLsr,
      execMovr, execMovm, State.inStage, State.finishAlu, State.finishTaken, State.finishNotTaken, State.memPass,
      State.memLoad, State.memStore, State.wbAlu, State.wbMdr, State.wbNone, State.raisePc, State.raiseMem] at h <;>
    repeat' split at h
  all_goals first
    | (cases h; exact ⟨_, rfl, rfl⟩)
    | cases h

end Sys2Proof.Machine
end

