-- ==== Sys2Proof/Laws/Host.lean ====
section
/-! SUPPORT. What the operations of the host's side can answer: the loads, the preloads, the front-end and the driver. -/

namespace Sys2Proof.Machine

/-- A load answers a state exactly for an image that fits (R232, R99). -/
theorem State.loadImage_eq_ok {image : List Word} {s : State} :
    State.loadImage image = .ok s ↔
      ∃ h : image.length ≤ Config.memWords,
        s = { State.reset with
              memory := Memory.writeFrom 0 image [], icount := ⟨image.length, Nat.lt_succ_of_le h⟩ } := by
  unfold State.loadImage
  split
  · simp_all [eq_comm (a := s)]
  · simp_all

/-- A program is loaded exactly when every record is well-formed and its image is loaded (R234). -/
theorem State.loadProgram_eq_ok {program : List Instr} {s : State} :
    State.loadProgram program = .ok s ↔
      (∀ i ∈ program, i.wellFormed = true) ∧ State.loadImage (program.map encode) = .ok s := by
  unfold State.loadProgram
  split <;> simp_all

/-- A register preload answers a state exactly before cycle 1 and for a register other than 0 (R233). -/
theorem State.preloadReg_eq_ok {s t : State} {i : RegIdx} {v : Word} :
    s.preloadReg i v = .ok t ↔ s.cycle = 0 ∧ i ≠ 0 ∧ t = s.writeReg i v := by
  unfold State.preloadReg
  split
  · simp_all
  · split <;> simp_all [eq_comm (a := t)]

/-- A word preload answers a state exactly before cycle 1 and for an address of the data space (R233). -/
theorem State.preloadWord_eq_ok {s t : State} {a : Nat} {v : Word} :
    s.preloadWord a v = .ok t ↔
      s.cycle = 0 ∧ (s.icount.val ≤ a ∧ a < Config.memWords) ∧ t = { s with memory := s.memory.write a v } := by
  unfold State.preloadWord
  split
  · simp_all
  · split <;> simp_all [eq_comm (a := t)]

/-- A source text gives an image exactly when its lines do and at most 2048 are accepted (R99). -/
theorem assemble_eq_ok {source : List Char} {a : Assembly} :
    assemble source = .ok a ↔
      assembleLines 1 (sourceLines source) = .ok a ∧ a.words.length ≤ Config.memWords := by
  unfold assemble
  cases assembleLines 1 (sourceLines source) with
  | error e => exact ⟨nofun, nofun⟩
  | ok b =>
    show (if Config.memWords < b.words.length then .error AssemblyError.programTooLong else .ok b) = Except.ok a ↔ _
    split
    · exact ⟨nofun, fun ⟨h, hl⟩ => by cases h; omega⟩
    · exact ⟨fun h => by cases h; exact ⟨rfl, by omega⟩, fun h => h.1⟩

/-- One step of the driver from a running state that has a next state. -/
theorem drive_succ_of_next {n : Nat} {s t : State} (hs : s.status = .running) (h : step s = .next t) :
    drive (n + 1) s = drive n t := by
  simp only [drive, hs, h]

end Sys2Proof.Machine
end

