-- ==== Sys2Proof/Laws/PerInstr.lean ====
section
/-! SUPPORT. For each instruction, the encoder puts its opcode number in bits [31:28] (spec 30_encoding.md R76, R78). -/

namespace Sys2Proof.Laws

/-- The opcode field of an encoded R-format word (R71). -/
theorem fieldOp_encodeR (op : BitVec 4) (r1 r2 r3 : RegIdx) : fieldOp (encodeR op r1 r2 r3) = op := by
  unfold fieldOp encodeR
  rw [BitVec.extractLsb'_append_eq_of_le (by omega), BitVec.extractLsb'_append_eq_of_le (by omega), BitVec.extractLsb'_append_eq_of_le (by omega), BitVec.extractLsb'_append_eq_of_le (by omega)]
  simp

/-- The opcode field of an encoded S-format word (R71). -/
theorem fieldOp_encodeS (op : BitVec 4) (r1 r2 : RegIdx) (shamt : BitVec 13) :
    fieldOp (encodeS op r1 r2 shamt) = op := by
  unfold fieldOp encodeS
  rw [BitVec.extractLsb'_append_eq_of_le (by omega), BitVec.extractLsb'_append_eq_of_le (by omega), BitVec.extractLsb'_append_eq_of_le (by omega), BitVec.extractLsb'_append_eq_of_le (by omega)]
  simp

/-- The opcode field of an encoded I-format word (R71). -/
theorem fieldOp_encodeI (op : BitVec 4) (r1 r2 : RegIdx) (imm : Word) :
    fieldOp (encodeI op r1 r2 imm) = op := by
  unfold fieldOp encodeI
  rw [BitVec.extractLsb'_append_eq_of_le (by omega), BitVec.extractLsb'_append_eq_of_le (by omega), BitVec.extractLsb'_append_eq_of_le (by omega)]
  simp

/-- The opcode field of an encoded J-format word (R71). -/
theorem fieldOp_encodeJ (op : BitVec 4) (target : BitVec 28) : fieldOp (encodeJ op target) = op := by
  unfold fieldOp encodeJ
  rw [BitVec.extractLsb'_append_eq_of_le (by omega)]
  simp

/-- The word of an instruction carries its opcode number (R78). -/
def EncodedOpcode.Statement (i : Instr) : Prop := fieldOp (encode i) = i.opcode

theorem EncodedOpcode.add (r1 r2 r3 : RegIdx) : EncodedOpcode.Statement (.add r1 r2 r3) := fieldOp_encodeR ..
theorem EncodedOpcode.sub (r1 r2 r3 : RegIdx) : EncodedOpcode.Statement (.sub r1 r2 r3) := fieldOp_encodeR ..
theorem EncodedOpcode.mul (r1 r2 r3 : RegIdx) : EncodedOpcode.Statement (.mul r1 r2 r3) := fieldOp_encodeR ..
theorem EncodedOpcode.movi (r1 r2 : RegIdx) (imm : Word) : EncodedOpcode.Statement (.movi r1 r2 imm) := fieldOp_encodeI ..
theorem EncodedOpcode.jeq (r1 r2 : RegIdx) (imm : Word) : EncodedOpcode.Statement (.jeq r1 r2 imm) := fieldOp_encodeI ..
theorem EncodedOpcode.and (r1 r2 r3 : RegIdx) : EncodedOpcode.Statement (.and r1 r2 r3) := fieldOp_encodeR ..
theorem EncodedOpcode.xori (r1 r2 : RegIdx) (imm : Word) : EncodedOpcode.Statement (.xori r1 r2 imm) := fieldOp_encodeI ..
theorem EncodedOpcode.jmp (target : BitVec 28) : EncodedOpcode.Statement (.jmp target) := fieldOp_encodeJ ..
theorem EncodedOpcode.lsl (r1 r2 : RegIdx) (shamt : BitVec 13) : EncodedOpcode.Statement (.lsl r1 r2 shamt) := fieldOp_encodeS ..
theorem EncodedOpcode.lsr (r1 r2 : RegIdx) (shamt : BitVec 13) : EncodedOpcode.Statement (.lsr r1 r2 shamt) := fieldOp_encodeS ..
theorem EncodedOpcode.movr (r1 r2 : RegIdx) (imm : Word) : EncodedOpcode.Statement (.movr r1 r2 imm) := fieldOp_encodeI ..
theorem EncodedOpcode.movm (r1 r2 : RegIdx) (imm : Word) : EncodedOpcode.Statement (.movm r1 r2 imm) := fieldOp_encodeI ..

end Sys2Proof.Laws
end

