-- ==== Sys2Proof/Laws/Stages.lean ====
section
/-! SUPPORT. What each stage of a cycle, the cycle and the step can answer. -/

namespace Sys2Proof.Machine

variable {s t : State}

/-- After the Write-back stage WB is empty, and the register file has taken what WB held (R104). -/
theorem writeBackStage_next (h : writeBackStage s = .next t) :
    (s.wbLatch = none ∧ t = s.actAt .writeBack) ∨
      ∃ b, s.wbLatch = some b ∧
        ((∃ r v, (wbAction b.ins = .writeAlu r ∧ b.alu = some v ∨ wbAction b.ins = .writeMdr r ∧ b.mdr = some v) ∧
            t = ((s.actAt .writeBack).writeReg r v).retire) ∨
          (wbAction b.ins = .noWrite ∧ t = (s.actAt .writeBack).retire)) := by
  unfold writeBackStage at h
  cases hb : s.wbLatch with
  | none =>
    rw [hb] at h
    exact .inl ⟨rfl, (Host.Outcome.next.inj h).symm⟩
  | some b =>
    rw [hb] at h
    exact .inr ⟨b, rfl, exec_writeBack_next (by simp) (by simpa using hb) h⟩

/-- After the Memory stage MEM is empty and what it held is in WB (R106). -/
theorem memoryStage_next (h : memoryStage s = .next t) :
    (s.memLatch = none ∧ t = s.actAt .memory) ∨
      ∃ m, s.memLatch = some m ∧
        ((carriesMdr m.ins = false ∧ (∀ r1 r2 imm, m.ins ≠ .movm r1 r2 imm) ∧
            t = (s.actAt .memory).passToWb m none) ∨
          (carriesMdr m.ins = true ∧ ∃ a, m.alu = some a ∧ inBounds a = true ∧
            t = (s.actAt .memory).passToWb m (some (s.memory.read a.toNat))) ∨
          (carriesMdr m.ins = false ∧ ∃ r1 r2 imm a, m.ins = .movm r1 r2 imm ∧ m.alu = some a ∧
            inBounds a = true ∧
            t = ({ s.actAt .memory with memory := s.memory.write a.toNat (s.readReg r1) } : State).passToWb m
              none)) := by
  unfold memoryStage at h
  cases hm : s.memLatch with
  | none =>
    rw [hm] at h
    exact .inl ⟨rfl, (Host.Outcome.next.inj h).symm⟩
  | some m =>
    rw [hm] at h
    exact .inr ⟨m, rfl, exec_memory_next (by simp) (by simpa using hm) h⟩

/-- The Execute stage counts down, or completes the instruction in EX (R108). -/
theorem executeStage_next (h : executeStage s = .next t) :
    (s.exLatch = none ∧ t = s.actAt .execute) ∨
      ∃ e, s.exLatch = some e ∧
        ((countDown e.ecnt ≠ 0 ∧ t = (s.countExecute e).actAt .execute) ∨
          (countDown e.ecnt = 0 ∧ exec e.ins ((s.countExecute e).actAt .execute) = .next t ∧
            ((∃ v, v.isSome = carriesAlu e.ins ∧ t = (s.actAt .execute).passToMem e v) ∨
              (∃ a, inBounds a = true ∧ carriesAlu e.ins = false ∧
                t = ((s.actAt .execute).redirect a).passToMem e none)))) := by
  unfold executeStage at h
  cases he : s.exLatch with
  | none =>
    rw [he] at h
    exact .inl ⟨rfl, (Host.Outcome.next.inj h).symm⟩
  | some e =>
    rw [he] at h
    refine .inr ⟨e, rfl, ?_⟩
    simp only at h
    split at h
    · next hz =>
      refine .inr ⟨hz, h, ?_⟩
      rcases exec_execute_next (e := { e with ecnt := countDown e.ecnt }) rfl rfl h with ⟨v, hv, ht⟩ | ⟨a, hb, hc, ht⟩
      · exact .inl ⟨v, hv, ht⟩
      · exact .inr ⟨a, hb, hc, ht⟩
    · next hz => exact .inl ⟨hz, (Host.Outcome.next.inj h).symm⟩

/-- The Decode stage counts down, waits, or moves the decoded instruction to EX (R118, R120). -/
theorem decodeStage_next (h : decodeStage s = .next t) :
    (s.idLatch = none ∧ t = s) ∨
      ∃ d, s.idLatch = some d ∧
        ((countDown d.dcnt = 0 ∧ s.exLatch = none ∧ ∃ ins, decode d.word = .ok ins ∧ t = s.passToEx d ins) ∨
          (¬(countDown d.dcnt = 0 ∧ s.exLatch = none) ∧ t = s.countDecode d)) := by
  unfold decodeStage at h
  cases hd : s.idLatch with
  | none =>
    rw [hd] at h
    exact .inl ⟨rfl, (Host.Outcome.next.inj h).symm⟩
  | some d =>
    rw [hd] at h
    refine .inr ⟨d, rfl, ?_⟩
    simp only at h
    split at h
    · next hz =>
      split at h
      · next ins hins => exact .inl ⟨hz.1, hz.2, ins, hins, (Host.Outcome.next.inj h).symm⟩
      · cases h
    · next hz => exact .inr ⟨hz, (Host.Outcome.next.inj h).symm⟩

/-- A cycle that does not fault runs its stages in the order of R100. -/
theorem runCycle_eq_next :
    runCycle s = .next t ↔ ∃ s1 s2 s3 s4, writeBackStage s.beginCycle = .next s1 ∧ memoryStage s1 = .next s2 ∧
      executeStage s2 = .next s3 ∧ decodeStage s3 = .next s4 ∧
      t = drainCheck (transferStage (fetchStage s4)) := by
  simp only [runCycle, andThen_eq_next, Host.Outcome.next.injEq, eq_comm (a := t)]
  constructor
  · rintro ⟨s1, h1, s2, h2, s3, h3, s4, h4, h⟩
    exact ⟨s1, s2, s3, s4, h1, h2, h3, h4, h⟩
  · rintro ⟨s1, s2, s3, s4, h1, h2, h3, h4, h⟩
    exact ⟨s1, h1, s2, h2, s3, h3, s4, h4, h⟩

/-- A step that answers a next state starts from a running one, and ends in the cycle's state or in the faulted state
of the record its cycle raised (R204). -/
theorem step_eq_next :
    step s = .next t ↔ s.status = .running ∧
      (runCycle s = .next t ∨ ∃ r, runCycle s = .fault (.raised r) ∧ t = s.enterFault r) := by
  unfold step
  cases s.status <;> simp [commit_eq_next]

/-! ### Fetch, transfer and drain change only the front of the pipeline -/

/-- The three cases of the Fetch stage (R121). -/
theorem fetchStage_cases (s : State) :
    (s.fsup ≠ 0 ∧ fetchStage s = { s with fsup := countDown s.fsup }) ∨
      (s.fsup = 0 ∧ s.ifLatch = none ∧ s.pc.toNat < s.icount.val ∧ fetchStage s = s.fetchWord) ∨
      (s.fsup = 0 ∧ ¬(s.ifLatch = none ∧ s.pc.toNat < s.icount.val) ∧ fetchStage s = s) := by
  unfold fetchStage
  by_cases h : s.fsup = 0
  · by_cases h2 : s.ifLatch = none ∧ s.pc.toNat < s.icount.val
    · simp [h, h2]
    · simp [h, h2]
  · simp [h]

/-- The cases of the IF-to-ID transfer (R125). -/
theorem transferStage_cases (s : State) :
    (∃ f, s.ifLatch = some f ∧ 1 < s.cycle ∧ s.idLatch = none ∧
        transferStage s = { s with idLatch := some ⟨f.word, f.ia, Config.decLat⟩, ifLatch := none }) ∨
      (¬(s.ifLatch ≠ none ∧ 1 < s.cycle ∧ s.idLatch = none) ∧ transferStage s = s) := by
  unfold transferStage
  cases hf : s.ifLatch with
  | none => simp
  | some f =>
    by_cases h : 1 < s.cycle ∧ s.idLatch = none
    · exact .inl ⟨f, rfl, h.1, h.2, by simp [h]⟩
    · exact .inr ⟨by simpa using h, by simp [h]⟩

/-- The drain check halts a drained state and leaves any other as it is (R130). -/
theorem drainCheck_cases (s : State) :
    (s.drained ∧ drainCheck s = { s with status := .halted }) ∨ (¬s.drained ∧ drainCheck s = s) := by
  unfold drainCheck
  by_cases h : s.drained
  · exact .inl ⟨h, if_pos h⟩
  · exact .inr ⟨h, if_neg h⟩

/-- The stages after Decode leave registers, memory, EX, MEM and WB as they are; only the drain check changes the
status. -/
theorem frontStages_frame (s : State) :
    let t := drainCheck (transferStage (fetchStage s))
    t.regs = s.regs ∧ t.memory = s.memory ∧ t.exLatch = s.exLatch ∧ t.memLatch = s.memLatch ∧
      t.wbLatch = s.wbLatch ∧ t.icount = s.icount ∧ t.cycle = s.cycle ∧ t.acting = s.acting ∧
      (t.status = s.status ∧ ¬t.drained ∨ t.status = .halted ∧ t.drained) := by
  intro t
  have ht : t = drainCheck (transferStage (fetchStage s)) := rfl
  clear_value t
  rcases drainCheck_cases (transferStage (fetchStage s)) with ⟨hd, h⟩ | ⟨hd, h⟩ <;> rw [h] at ht <;>
    rcases transferStage_cases (fetchStage s) with ⟨f, -, -, -, h2⟩ | ⟨-, h2⟩ <;> rw [h2] at ht hd <;>
    rcases fetchStage_cases s with ⟨-, h3⟩ | ⟨-, -, -, h3⟩ | ⟨-, -, h3⟩ <;> rw [h3] at ht hd <;>
    subst ht <;> refine ⟨rfl, rfl, rfl, rfl, rfl, rfl, rfl, rfl, ?_⟩ <;>
    first | exact .inl ⟨rfl, hd⟩ | exact .inr ⟨rfl, hd⟩

end Sys2Proof.Machine
end

