-- ==== Sys2Proof/Tests/Slice0.lean ====
section
/-! SUPPORT. The model's own tests: one step on a small state, expected results from spec 95_test_vectors.md and from
hand calculation by the rules named. The witnesses of the statements are in Tests/Witnesses.lean. -/

namespace Sys2Proof.Tests

open Sys2Proof.Machine

/-! ### Well-formedness: an immediate outside the 18-bit range is refused (R76, R97) -/

theorem test_wf_movi_131072 : (Instr.movi 1 0 131072).wellFormed = false := by decide
theorem test_wf_jeq_minus_131073 : (Instr.jeq 1 2 0xFFFDFFFF).wellFormed = false := by decide
theorem test_wf_xori_unsigned_field : (Instr.xori 1 2 0x3FFFF).wellFormed = false := by decide
theorem test_wf_movr_too_large : (Instr.movr 1 2 0x80000000).wellFormed = false := by decide
theorem test_wf_movm_too_large : (Instr.movm 1 2 0x00020000).wellFormed = false := by decide
theorem test_wf_movi_ends : (Instr.movi 1 0 131071).wellFormed = true ∧ (Instr.movi 1 0 0xFFFE0000).wellFormed = true := by
  decide

/-! ### Words written out bit by bit from R71 and R78 (95_test_vectors.md section 2.1) -/

theorem test_word_add : decode 0b0000_00001_00010_00011_0000000000000 = .ok (.add 1 2 3) := by rfl
theorem test_word_sub : decode 0b0001_00001_00010_00011_0000000000000 = .ok (.sub 1 2 3) := by rfl
theorem test_word_mul : decode 0b0010_00001_00010_00011_0000000000000 = .ok (.mul 1 2 3) := by rfl
theorem test_word_movi : decode 0b0011_00101_00111_000000000000001001 = .ok (.movi 5 7 9) := by rfl
theorem test_word_jeq : decode 0b0100_00001_00010_111111111111111111 = .ok (.jeq 1 2 0xFFFFFFFF) := by rfl
theorem test_word_and : decode 0b0101_00001_00010_00011_0000000000000 = .ok (.and 1 2 3) := by rfl
theorem test_word_xori : decode 0b0110_00011_00001_000000000011110000 = .ok (.xori 3 1 240) := by rfl
theorem test_word_jmp : decode 0b0111_1111111111111111111111111111 = .ok (.jmp 268435455) := by rfl
theorem test_word_lsl : decode 0b1000_00010_00001_00000_0000000011111 = .ok (.lsl 2 1 31) := by rfl
theorem test_word_lsr : decode 0b1001_00010_00001_00000_1111111111111 = .ok (.lsr 2 1 8191) := by rfl
theorem test_word_movr : decode 0b1010_00100_00000_000000000001100100 = .ok (.movr 4 0 100) := by rfl
theorem test_word_movm : decode 0b1011_11111_11111_100000000000000000 = .ok (.movm 31 31 0xFFFE0000) := by rfl
theorem test_word_undefined_bits :
    decode 0x00887FFF = .ok (.add 1 2 3) ∧ decode 0x8107E01F = .ok (.lsl 2 1 31) := ⟨rfl, rfl⟩
theorem test_word_invalid :
    decode 0xC0000000 = .error (.invalidOpcode 12) ∧ decode 0xF0000000 = .error (.invalidOpcode 15) := ⟨rfl, rfl⟩
theorem test_table_word : decodeTableWord 32 0x00886000 = some (.add 1 2 3) ∧ decodeTableWord 32 0xC0000000 = none :=
  ⟨rfl, rfl⟩

/-! ### One step of each instruction (95_test_vectors.md sections 2.2 to 2.4) -/

/-- Reset with two registers preloaded. -/
def withRegs (i : RegIdx) (v : Word) (j : RegIdx) (w : Word) : State :=
  (State.reset.writeReg i v).writeReg j w

/-- The next state of an outcome. -/
def nextOf : Out → Option State
  | .next t => some t
  | _ => none

/-- The ALU result that a word leaves in MEM when it completes Execute. -/
def aluOf (s : State) (w : Nat) : Option Word :=
  (nextOf (step (s.withFetchWord 32 w))).bind fun t => t.memLatch.bind fun m => m.alu

theorem test_add : aluOf (withRegs 2 4 3 5) 0x00886000 = some 9 := by decide
theorem test_add_wraps : aluOf (withRegs 2 0xFFFFFFFF 3 1) 0x00886000 = some 0 := by decide
theorem test_sub_borrows : aluOf (withRegs 2 4 3 5) 0x10886000 = some 0xFFFFFFFF := by decide
theorem test_mul_low_half : aluOf (withRegs 2 0x12345678 3 0x9ABCDEF0) 0x20886000 = some 0x242D2080 := by decide
theorem test_and : aluOf (withRegs 2 0xF0F0F0F0 3 0x0FF00FF0) 0x50886000 = some 0x00F000F0 := by decide
theorem test_movi_ignores_r2 : aluOf (withRegs 7 1000 1 1) 0x329C0009 = some 9 := by decide
theorem test_movi_negative : aluOf State.reset 0x32820000 = some 0xFFFE0000 := by decide
theorem test_xori_sign_extends : aluOf (withRegs 1 0xFFFF 2 0) 0x6187FFFF = some 0xFFFF0000 := by decide
theorem test_lsl_31 : aluOf (withRegs 1 3 3 0) 0x8104001F = some 0x80000000 := by decide
theorem test_lsl_32 : aluOf (withRegs 1 0xFFFFFFFF 3 0) 0x81040020 = some 0 := by decide
theorem test_lsr_logical : aluOf (withRegs 1 0x80000010 3 0) 0x91040004 = some 0x08000001 := by decide
theorem test_lsr_8191 : aluOf (withRegs 1 0xFFFFFFFF 3 0) 0x91041FFF = some 0 := by decide
theorem test_movr_address_wraps : aluOf (withRegs 1 2048 3 0) 0xA207FFFF = some 2047 := by decide

/-- PC, flush and suppression after a step. -/
def redirectOf (s : State) (w : Nat) : Option (Word × Bool × Count) :=
  (nextOf (step (s.withFetchWord 32 w))).map fun t => (t.pc, t.ifLatch.isNone && t.idLatch.isNone, t.fsup)

theorem test_jeq_taken : redirectOf (withRegs 1 7 2 7) 0x40880005 = some (6, true, 1) := by decide
theorem test_jeq_not_taken : redirectOf (withRegs 1 1 2 2) 0x40880005 = some (1, true, 0) := by decide
theorem test_jmp : redirectOf State.reset 0x70000005 = some (5, true, 1) := by decide

/-- The status after a step. -/
def statusOf (s : State) (w : Nat) : Option Status :=
  (nextOf (step (s.withFetchWord 32 w))).map fun t => t.status

theorem test_jeq_out_of_bounds :
    statusOf State.reset 0x4003FFFE = some (.faulted (.pcOutOfBounds 6 4 0xFFFFFFFF 0 0x4003FFFE)) := by decide
theorem test_jmp_2048 : statusOf State.reset 0x70000800 = some (.faulted (.pcOutOfBounds 6 7 2048 0 0x70000800)) := by
  decide
theorem test_invalid_opcode : statusOf State.reset 0xF0000000 = some (.faulted (.invalidOpcode 4 15 0xF0000000 0)) := by
  decide

/-- A state with one instruction in MEM at address `a`. -/
def inMem (s : State) (word : Word) (i : Instr) (a : Word) : State :=
  { s with memLatch := some ⟨word, 0, i, some a⟩, pc := 1, icount := 1, cycle := 6 }

/-- A load of the last word: the memory result it takes to WB. -/
theorem test_movr_last_word :
    (nextOf (step (inMem { State.reset with memory := [(2047, 9)] } 0xA2040000 (.movr 4 1 0) 2047))).bind
      (fun t => t.wbLatch.bind fun b => b.mdr) = some 9 := by decide

/-- A store: only its word changes. -/
theorem test_movm_stores :
    (nextOf (step (inMem { withRegs 3 42 1 0 with memory := [(5, 1)] } 0xB1800064 (.movm 3 0 100) 100))).map
      (fun t => t.memory) = some [(5, 1), (100, 42)] := by decide

/-- A store of 0 removes the entry, so that equal memories are equal lists (95_test_vectors.md: `MOVM R0 R0 100`). -/
theorem test_movm_zero :
    (nextOf (step (inMem { State.reset with memory := [(100, 7)] } 0xB0000064 (.movm 0 0 100) 100))).map
      (fun t => t.memory) = some [] := by decide

/-- A store at 2048 faults, writes nothing, and leaves the cycle counter (R201, R204). -/
theorem test_movm_faults :
    (nextOf (step (inMem (withRegs 3 1 1 0) 0xB1840005 (.movm 3 1 5) 2048))).map
      (fun t => (t.status, t.memory, t.cycle)) =
      some (.faulted (.memOutOfBounds 7 11 2048 0 0xB1840005), [], 6) := by decide

/-- A state with one instruction in WB. -/
def inWb (i : Instr) (alu mdr : Option Word) : State :=
  { State.reset with wbLatch := some ⟨0, 0, i, alu, mdr⟩, pc := 1, icount := 1, cycle := 7 }

/-- Write-back of a load writes the loaded word, and the run then halts (R104, R130). -/
theorem test_wb_movr :
    (nextOf (step (inWb (.movr 4 0 100) (some 100) (some 42)))).map (fun t => (t.readReg 4, t.status)) =
      some (42, .halted) := by decide

/-- Write-back to register 0 changes nothing (R22). -/
theorem test_wb_r0 :
    (nextOf (step (inWb (.movi 0 0 5) (some 5) none))).map (fun t => t.regs) = some State.reset.regs := by decide

/-- MOVM writes no register (R105). -/
theorem test_wb_movm :
    (nextOf (step (inWb (.movm 3 0 100) (some 100) none))).map (fun t => t.regs) = some State.reset.regs := by decide

/-- The empty program halts at the end of cycle 1 (D17). -/
theorem test_empty_program_halts :
    (nextOf (step State.reset)).map (fun t => (t.status, t.cycle)) = some (.halted, 1) := by decide

/-! ### The assembler (95_test_vectors.md section 1.8; R95 to R98) -/

/-- `FOO R1` is skipped, and `JMP 5` stands at address 0. -/
theorem test_assemble_skips_unknown :
    assembleLines 1 [['F', 'O', 'O', ' ', 'R', '1'], ['J', 'M', 'P', ' ', '5', ';', 'x'], []] =
      .ok ⟨[0x70000005], [1]⟩ := by rfl

/-- A register number above 31 refuses the program. -/
theorem test_loadProgram_refuses_wide_immediate :
    State.loadProgram [.add 1 2 3, .movi 1 0 131072] = .error .fieldOutOfRange := rfl

theorem test_assemble_refuses_r32 :
    assembleLines 1 [['M', 'O', 'V', 'I', ' ', 'R', '3', '2', ' ', 'R', '0', ' ', '-', '1']] =
      .error (.badOperands 1) := by rfl

end Sys2Proof.Tests
end

