-- ==== Sys2Proof/Tests/Witnesses.lean ====
section
/-! SUPPORT. For each statement that has hypotheses, a concrete state and operands that meet them, clause by clause, at
boundary values of their ranges. -/

namespace Sys2Proof.Tests

open Sys2Proof.Machine

/-! ### States in mid-flight -/

/-- The state a step answers, or the state itself where it answers none. -/
def after (s : State) : State := (nextOf (step s)).getD s

theorem next_of {s : State} (h : (nextOf (step s)).isSome = true) : step s = .next (after s) := by
  unfold after
  revert h
  cases step s <;> simp [nextOf]

/-- After cycle 5 of a program of 8 words: `i` in EX, about to complete, `word` behind it in ID. -/
def midOdd (i : Instr) (word : Word) : State :=
  { State.reset with
    cycle := 5, pc := 3, icount := 8, exLatch := some ⟨encode i, 0, i, 1⟩, idLatch := some ⟨word, 1, 1⟩,
    ifLatch := some ⟨0, 2⟩ }

/-- After cycle 4 of a program of 8 words: `i` fresh in EX, `word` fresh in ID. -/
def midEven (i : Instr) (word : Word) : State :=
  { State.reset with
    cycle := 4, pc := 2, icount := 8, exLatch := some ⟨encode i, 0, i, 2⟩, idLatch := some ⟨word, 1, 2⟩ }

/-- After cycle 6 of a program of 8 words: `i` in MEM with its address or result `v`. -/
def midMem (i : Instr) (v : Option Word) : State :=
  { State.reset with
    cycle := 6, pc := 3, icount := 8, memLatch := some ⟨encode i, 0, i, v⟩, exLatch := some ⟨0, 1, .add 0 0 0, 2⟩,
    idLatch := some ⟨0, 2, 2⟩ }

/-- After cycle 7 of a program of 8 words: `i` in WB. -/
def midWb (i : Instr) (v mdr : Option Word) : State :=
  { State.reset with
    cycle := 7, pc := 4, icount := 8, wbLatch := some ⟨encode i, 0, i, v, mdr⟩,
    exLatch := some ⟨0, 1, .add 0 0 0, 1⟩, idLatch := some ⟨0, 2, 1⟩, ifLatch := some ⟨0, 3⟩ }

theorem midOdd_inv {i : Instr} {word : Word} (h : decode (encode i) = .ok i) : (midOdd i word).Inv :=
  ⟨⟨rfl, by simp [midOdd, State.reset, Memory.wf], by simp [midOdd]; decide⟩,
    ⟨by simp [midOdd, h], by simp [midOdd, State.reset], by simp [midOdd, State.reset]⟩,
    by simp [midOdd, State.reset, State.TimingOk, State.OddOk], by simp [midOdd, State.reset, State.OrderOk],
    by simp [midOdd, State.reset, State.StatusOk, Status.faultCycle]⟩

theorem midEven_inv {i : Instr} {word : Word} (h : decode (encode i) = .ok i) : (midEven i word).Inv :=
  ⟨⟨rfl, by simp [midEven, State.reset, Memory.wf], by simp [midEven]; decide⟩,
    ⟨by simp [midEven, h], by simp [midEven, State.reset], by simp [midEven, State.reset]⟩,
    by simp [midEven, State.reset, State.TimingOk, State.EvenOk], by simp [midEven, State.reset, State.OrderOk],
    by simp [midEven, State.reset, State.StatusOk, Status.faultCycle]⟩

theorem midMem_inv {i : Instr} {v : Option Word} (h : decode (encode i) = .ok i) (hv : v.isSome = carriesAlu i) :
    (midMem i v).Inv :=
  ⟨⟨rfl, by simp [midMem, State.reset, Memory.wf], by simp [midMem]; decide⟩,
    ⟨by simp [midMem]; decide, by simp [midMem, State.reset, h, hv], by simp [midMem, State.reset]⟩,
    by simp [midMem, State.reset, State.TimingOk, State.EvenOk], by simp [midMem, State.reset, State.OrderOk],
    by simp [midMem, State.reset, State.StatusOk, Status.faultCycle]⟩

theorem reset_inv : State.reset.Inv :=
  ⟨⟨by decide, by decide, by decide⟩, ⟨nofun, nofun, nofun⟩, by decide,
    ⟨nofun, nofun, nofun, nofun, nofun, nofun⟩, nofun, nofun⟩

/-! ### The codec -/

theorem witness_DecodeAndEncodeRoundTrip :
    (Instr.movm 31 31 0xFFFE0000).wellFormed = true ∧ decode 0x00886001 = .ok (.add 1 2 3) ∧
      (0x00886001 : Word) &&& ~~~(definedBits (.add 1 2 3)) ≠ 0 := ⟨by decide, rfl, by decide⟩

theorem witness_DecodeRejectsExactlyOpcodes12To15 :
    (fieldOp 0x00000000).toNat ≤ 11 ∧ (fieldOp 0xBFFFFFFF).toNat ≤ 11 ∧ 12 ≤ (fieldOp 0xC0000000).toNat ∧
      12 ≤ (fieldOp 0xFFFFFFFF).toNat := by decide

theorem witness_DecodeIgnoresUndefinedBits : decode 0x8107E01F = .ok (.lsl 2 1 31) := rfl

/-! ### The instructions -/

/-- The hypotheses of the three clauses of `AluShape` for `i`. -/
def AluHypotheses (i : Instr) : Prop :=
  (∃ (s : State) (e : ExLatch), s.acting = .execute ∧ s.exLatch = some e ∧ e.ins = i) ∧
  (∃ (s : State) (m : MemLatch), s.acting = .memory ∧ s.memLatch = some m ∧ m.ins = i) ∧
  (∃ (s : State) (b : WbLatch) (v : Word), s.acting = .writeBack ∧ s.wbLatch = some b ∧ b.ins = i ∧ b.alu = some v)

theorem alu_hypotheses (i : Instr) : AluHypotheses i :=
  ⟨⟨midOdd i 0, _, rfl, rfl, rfl⟩, ⟨(midMem i (some 9)).actAt .memory, _, rfl, rfl, rfl⟩,
    ⟨(midWb i (some 9) none).actAt .writeBack, _, 9, rfl, rfl, rfl, rfl⟩⟩

theorem witness_AddWritesTheSum : AluHypotheses (.add 1 2 3) := alu_hypotheses _
theorem witness_SubWritesTheDifference : AluHypotheses (.sub 1 2 3) := alu_hypotheses _
theorem witness_MulWritesTheLowProduct : AluHypotheses (.mul 1 2 3) := alu_hypotheses _
theorem witness_AndWritesTheBitwiseAnd : AluHypotheses (.and 1 2 3) := alu_hypotheses _
theorem witness_MoviWritesTheImmediate : AluHypotheses (.movi 0 7 9) := alu_hypotheses _
theorem witness_XoriWritesTheExclusiveOr : AluHypotheses (.xori 3 1 240) := alu_hypotheses _
theorem witness_LslWritesTheLeftShift : AluHypotheses (.lsl 2 1 8191) := alu_hypotheses _
theorem witness_LsrWritesTheRightShift : AluHypotheses (.lsr 2 1 31) := alu_hypotheses _

theorem witness_MovrLoadsTheWord :
    (∃ (s : State) (e : ExLatch), s.acting = .execute ∧ s.exLatch = some e ∧ e.ins = .movr 4 0 100) ∧
    (∃ (s : State) (m : MemLatch) (a : Word), s.acting = .memory ∧ s.memLatch = some m ∧ m.alu = some a ∧ a.toNat < 2048 ∧ a.toNat = 2047) ∧
    (∃ (s : State) (m : MemLatch) (a : Word), s.acting = .memory ∧ s.memLatch = some m ∧
      m.ins = .movr 4 0 ((100#18).signExtend 32) ∧ m.alu = some a ∧ 2048 ≤ a.toNat ∧ a.toNat = 2048) ∧
    (∃ (s : State) (b : WbLatch) (v : Word), s.acting = .writeBack ∧ s.wbLatch = some b ∧ b.mdr = some v) :=
  ⟨⟨midOdd (.movr 4 0 100) 0, _, rfl, rfl, rfl⟩,
    ⟨(midMem (.movr 4 0 100) (some 2047)).actAt .memory, _, 2047, rfl, rfl, rfl, by decide, by decide⟩,
    ⟨(midMem (.movr 4 0 100) (some 2048)).actAt .memory, _, 2048, rfl, rfl, by decide, rfl, by decide, by decide⟩,
    ⟨(midWb (.movr 4 0 100) (some 100) (some 7)).actAt .writeBack, _, 7, rfl, rfl, rfl⟩⟩

theorem witness_MovmStoresTheWord :
    (∃ (s : State) (e : ExLatch), s.acting = .execute ∧ s.exLatch = some e ∧ e.ins = .movm 3 0 100) ∧
    (∃ (s : State) (m : MemLatch) (a : Word), s.acting = .memory ∧ s.memLatch = some m ∧ m.alu = some a ∧ a.toNat < 2048 ∧ a.toNat = 2047 ∧
      s.memory.wf) ∧
    (∃ (s : State) (m : MemLatch) (a : Word), s.acting = .memory ∧ s.memLatch = some m ∧
      m.ins = .movm 3 0 ((100#18).signExtend 32) ∧ m.alu = some a ∧ 2048 ≤ a.toNat ∧ a.toNat = 2048) ∧
    (∃ (s : State) (b : WbLatch), s.acting = .writeBack ∧ s.wbLatch = some b ∧ b.ins = .movm 3 0 100) :=
  ⟨⟨midOdd (.movm 3 0 100) 0, _, rfl, rfl, rfl⟩,
    ⟨(midMem (.movm 3 0 100) (some 2047)).actAt .memory, _, 2047, rfl, rfl, rfl, by decide, by decide, by decide⟩,
    ⟨(midMem (.movm 3 0 100) (some 2048)).actAt .memory, _, 2048, rfl, rfl, by decide, rfl, by decide, by decide⟩,
    ⟨(midWb (.movm 3 0 100) (some 100) none).actAt .writeBack, _, rfl, rfl, rfl⟩⟩

/-- The hypotheses of `BranchTail` for `i`. -/
def BranchTailHypotheses (i : Instr) : Prop :=
  (∃ (s : State) (m : MemLatch), s.acting = .memory ∧ s.memLatch = some m ∧ m.ins = i) ∧
  (∃ (s : State) (b : WbLatch), s.acting = .writeBack ∧ s.wbLatch = some b ∧ b.ins = i)

theorem branchTail_hypotheses (i : Instr) : BranchTailHypotheses i :=
  ⟨⟨(midMem i none).actAt .memory, _, rfl, rfl, rfl⟩, ⟨(midWb i none none).actAt .writeBack, _, rfl, rfl, rfl⟩⟩

/-- Not taken; taken to 2047, the last address; taken to 2048, which faults. -/
theorem witness_JeqBranchesWhenEqual :
    (∃ (s : State) (e : ExLatch), s.acting = .execute ∧ s.exLatch = some e ∧ s.readReg 1 ≠ s.readReg 0 ∧ e.ins = .jeq 1 0 5) ∧
    (∃ (s : State) (e : ExLatch), s.acting = .execute ∧ s.exLatch = some e ∧ s.readReg 0 = s.readReg 0 ∧
      (e.ia + 1 + (2046#18).signExtend 32 : Word).toNat = 2047) ∧
    (∃ (s : State) (e : ExLatch), s.acting = .execute ∧ s.exLatch = some e ∧ s.readReg 0 = s.readReg 0 ∧
      e.ins = .jeq 0 0 ((2047#18).signExtend 32) ∧ (e.ia + 1 + (2047#18).signExtend 32 : Word).toNat = 2048) ∧
    BranchTailHypotheses (.jeq 0 0 2047) :=
  ⟨⟨(midOdd (.jeq 1 0 5) 0).writeReg 1 7, _, by decide, rfl, by decide, rfl⟩,
    ⟨midOdd (.jeq 0 0 2046) 0, _, rfl, rfl, rfl, by decide⟩,
    ⟨midOdd (.jeq 0 0 2047) 0, _, rfl, rfl, rfl, by decide, by decide⟩, branchTail_hypotheses _⟩

/-- To 2047, the last address, and to 2048, which faults. -/
theorem witness_JmpReplacesTheLowPcBits :
    (∃ (s : State) (e : ExLatch), s.acting = .execute ∧ s.exLatch = some e ∧ e.ins = .jmp 2047 ∧
      (s.pc.extractLsb' 28 4 ++ (2047 : BitVec 28) : Word).toNat = 2047) ∧
    (∃ (s : State) (e : ExLatch), s.acting = .execute ∧ s.exLatch = some e ∧ e.ins = .jmp 2048 ∧
      (s.pc.extractLsb' 28 4 ++ (2048 : BitVec 28) : Word).toNat = 2048) ∧
    BranchTailHypotheses (.jmp 2047) :=
  ⟨⟨midOdd (.jmp 2047) 0, _, rfl, rfl, rfl, by decide⟩, ⟨midOdd (.jmp 2048) 0, _, rfl, rfl, rfl, by decide⟩,
    branchTail_hypotheses _⟩

/-! ### Registers and memory -/

theorem witness_RegisterZeroReadsZero :
    (31 : RegIdx) ≠ 0 ∧ (midWb (.movi 0 0 5) (some 5) none).regs.get 0 = 0 ∧
      step (midWb (.movi 0 0 5) (some 5) none) = .next (after (midWb (.movi 0 0 5) (some 5) none)) :=
  ⟨by decide, by decide, next_of (by decide)⟩

theorem witness_RegistersChangeOnlyInWriteBack :
    (1 : RegIdx) ≠ 0 ∧ (31 : RegIdx) ≠ 0 ∧
      step (midWb (.movr 1 0 100) (some 100) (some 7)) = .next (after (midWb (.movr 1 0 100) (some 100) (some 7))) ∧
      (after (midWb (.movr 1 0 100) (some 100) (some 7))).regs ≠ State.reset.regs :=
  ⟨by decide, by decide, next_of (by decide), by decide⟩

theorem witness_MemoryReadsTheLastWrite :
    2048 ≤ (2048 : Word).toNat ∧ (2047 : Word).toNat < 2048 ∧ State.reset.memory.wf := by decide

theorem witness_MemoryChangesOnlyByMovm :
    step ((midMem (.movm 1 0 2047) (some 2047)).writeReg 1 5) =
        .next (after ((midMem (.movm 1 0 2047) (some 2047)).writeReg 1 5)) ∧
      (after ((midMem (.movm 1 0 2047) (some 2047)).writeReg 1 5)).memory ≠ [] :=
  ⟨next_of (by decide), by decide⟩

/-- A step that fetches the word its own store wrote: the store is to the address of the PC. -/
theorem witness_FetchSeesTheStoreOfItsCycle :
    step ((midMem (.movm 1 0 3) (some 3)).writeReg 1 5) = .next (after ((midMem (.movm 1 0 3) (some 3)).writeReg 1 5)) ∧
      (after ((midMem (.movm 1 0 3) (some 3)).writeReg 1 5)).notFaulted ∧
      (after ((midMem (.movm 1 0 3) (some 3)).writeReg 1 5)).ifLatch = some ⟨5, 3⟩ ∧
      (after ((midMem (.movm 1 0 3) (some 3)).writeReg 1 5)).idLatch = some ⟨0, 2, 1⟩ :=
  ⟨next_of (by decide), by decide, by decide, by decide⟩

theorem witness_PcMovesOnlyByFetchOrBranch :
    step (midOdd (.jmp 7) 0) = .next (after (midOdd (.jmp 7) 0)) ∧
      step (midEven (.movr 1 0 100) 0) = .next (after (midEven (.movr 1 0 100) 0)) :=
  ⟨next_of (by decide), next_of (by decide)⟩

/-- One step that does not fault, and one that does. -/
theorem witness_CycleCountAdvancesAndIcountStays :
    (step (midOdd (.jmp 7) 0) = .next (after (midOdd (.jmp 7) 0)) ∧ (after (midOdd (.jmp 7) 0)).notFaulted) ∧
      (step (midOdd (.jmp 2048) 0) = .next (after (midOdd (.jmp 2048) 0)) ∧
        ¬(after (midOdd (.jmp 2048) 0)).notFaulted) :=
  ⟨⟨next_of (by decide), by decide⟩, ⟨next_of (by decide), by decide⟩⟩

/-! ### The stages -/

theorem witness_WriteBackStageFollowsItsTable :
    State.reset.wbLatch = none ∧
    (∃ (b : WbLatch), (midWb (.add 0 2 3) (some 9) none).wbLatch = some b ∧ wbAction b.ins = .writeAlu 0 ∧ b.alu = some 9) ∧
    (∃ (b : WbLatch), (midWb (.movr 4 0 100) (some 100) (some 7)).wbLatch = some b ∧ wbAction b.ins = .writeMdr 4 ∧
      b.mdr = some 7) ∧
    (∃ (b : WbLatch), (midWb (.movm 4 0 100) (some 100) none).wbLatch = some b ∧ wbAction b.ins = .noWrite) :=
  ⟨rfl, ⟨_, rfl, rfl, rfl⟩, ⟨_, rfl, rfl, rfl⟩, ⟨_, rfl, rfl⟩⟩

theorem witness_MemoryStageAccessesAndMovesOn :
    State.reset.memLatch = none ∧
    (∃ (m : MemLatch), (midMem (.add 1 2 3) (some 9)).memLatch = some m ∧ (∀ r1 r2 imm, m.ins ≠ .movr r1 r2 imm) ∧
      ∀ r1 r2 imm, m.ins ≠ .movm r1 r2 imm) ∧
    (∃ (m : MemLatch), (midMem (.movr 4 0 100) (some 2047)).memLatch = some m ∧ m.ins = .movr 4 0 100 ∧ m.alu = some 2047) ∧
    (∃ (m : MemLatch), (midMem (.movm 4 0 100) (some 2048)).memLatch = some m ∧ m.ins = .movm 4 0 100 ∧ m.alu = some 2048) :=
  ⟨rfl, ⟨_, rfl, nofun, nofun⟩, ⟨_, rfl, rfl, rfl⟩, ⟨_, rfl, rfl, rfl⟩⟩

theorem witness_ExecuteStageCountsThenCompletes :
    State.reset.exLatch = none ∧
    (∃ (e : ExLatch), (midEven (.add 1 2 3) 0).exLatch = some e ∧ e.ecnt = 2) ∧
    (∃ (e : ExLatch), (midOdd (.add 1 2 3) 0).exLatch = some e ∧ e.ecnt = 1) :=
  ⟨rfl, ⟨_, rfl, rfl⟩, ⟨_, rfl, rfl⟩⟩

theorem witness_DecodeStageCountsThenMovesOn :
    State.reset.idLatch = none ∧
    (∃ (d : IdLatch), (midEven (.add 1 2 3) 0).idLatch = some d ∧ d.dcnt = 2) ∧
    (∃ (d : IdLatch), (midOdd (.add 1 2 3) 0).idLatch = some d ∧ d.dcnt ≠ 2 ∧ (midOdd (.add 1 2 3) 0).exLatch ≠ none) ∧
    (∃ (d : IdLatch), ({ midOdd (.add 1 2 3) 0xBFFFFFFF with exLatch := none } : State).idLatch = some d ∧ d.dcnt ≠ 2 ∧
      decode d.word = .ok (.movm 31 31 0xFFFFFFFF)) ∧
    (∃ (d : IdLatch), ({ midOdd (.add 1 2 3) 0xC0000000 with exLatch := none } : State).idLatch = some d ∧ d.dcnt ≠ 2 ∧
      12 ≤ (d.word.extractLsb' 28 4).toNat) :=
  ⟨rfl, ⟨_, rfl, rfl⟩, ⟨_, rfl, by decide, by decide⟩, ⟨_, rfl, by decide, rfl⟩, ⟨_, rfl, by decide, by decide⟩⟩

/-- The PC at icount - 1 fetches, and at icount does not. -/
theorem witness_FetchStageFetchesOrWaits :
    ({ State.reset with fsup := 2 } : State).fsup = 2 ∧ ({ State.reset with fsup := 1 } : State).fsup = 1 ∧
    (let s : State := { State.reset with icount := 2048, pc := 2047 }
     s.fsup = 0 ∧ s.ifLatch = none ∧ s.pc.toNat < s.icount.val) ∧
    (let s : State := { State.reset with icount := 2048, pc := 2048 }
     s.fsup = 0 ∧ s.icount.val ≤ s.pc.toNat) ∧
    (midOdd (.add 1 2 3) 0).fsup = 0 ∧ (midOdd (.add 1 2 3) 0).ifLatch ≠ none := by decide

/-- Cycle 2 is the first that transfers, and cycle 1 does not. -/
theorem witness_TransferStageMovesAfterTheFirstCycle :
    (let s : State := { State.reset with cycle := 2, ifLatch := some ⟨0x00886000, 0⟩ }
     1 < s.cycle ∧ s.ifLatch = some ⟨0x00886000, 0⟩ ∧ s.idLatch = none) ∧
    (let s : State := { State.reset with cycle := 1, ifLatch := some ⟨0x00886000, 0⟩ }
     s.cycle ≤ 1) := by decide

theorem witness_StepRunsTheDecodedInstruction :
    (∃ (s : State) (s1 : State) (s2 : State) (e : ExLatch), s.status = .running ∧ s.exLatch = some e ∧ e.ecnt = 1 ∧ writeBackStage s.beginCycle = .next s1 ∧
      memoryStage s1 = .next s2) ∧
    (∃ (s : State) (d : IdLatch), s.idLatch = some d ∧ d.dcnt = 1 ∧ s.exLatch = none ∧ decode d.word = .ok (.jmp 5)) :=
  ⟨⟨midOdd (.jmp 7) 0, _, _, _, rfl, rfl, rfl, rfl, rfl⟩,
    ⟨{ midOdd (.jmp 7) 0x70000005 with exLatch := none }, _, rfl, rfl, rfl, rfl⟩⟩

theorem witness_PlacedInstructionRunsInTheNextStep : (Instr.jeq 0 0 0xFFFE0000).wellFormed = true := by decide

/-- From cycle 0, and from a later cycle, at the last address of memory. -/
theorem witness_FetchedWordReachesExecute :
    (let s : State := { State.reset with icount := 1, memory := [(0, 0x70000005)] }
     s.status = .running ∧ s.ifLatch = none ∧ s.idLatch = none ∧ s.exLatch = none ∧ s.memLatch = none ∧
       s.wbLatch = none ∧ s.fsup = 0 ∧ s.pc.toNat < 2048 ∧ s.icount.val = s.pc.toNat + 1 ∧ s.memory.wf ∧
       s.cycle = 0 ∧ decode (s.memory.read s.pc.toNat) = .ok (.jmp 5)) ∧
    (let s : State :=
      { State.reset with icount := 2048, pc := 2047, cycle := 7, memory := [(2047, 0x70000005)] }
     s.status = .running ∧ s.ifLatch = none ∧ s.idLatch = none ∧ s.exLatch = none ∧ s.memLatch = none ∧
       s.wbLatch = none ∧ s.fsup = 0 ∧ s.pc.toNat < 2048 ∧ s.icount.val = s.pc.toNat + 1 ∧ s.memory.wf ∧
       s.cycle ≠ 0 ∧ decode (s.memory.read s.pc.toNat) = .ok (.jmp 5)) := by
  refine ⟨⟨rfl, rfl, rfl, rfl, rfl, rfl, rfl, by decide, by decide, by decide, rfl, rfl⟩,
    ⟨rfl, rfl, rfl, rfl, rfl, rfl, rfl, by decide, by decide, by decide, by decide, rfl⟩⟩

/-! ### Faults and the end of a run -/

theorem witness_FaultingCycleCommitsNothing :
    step (midOdd (.jmp 2048) 0) = .next (after (midOdd (.jmp 2048) 0)) ∧
      (after (midOdd (.jmp 2048) 0)).status = .faulted (.pcOutOfBounds 6 7 2048 0 0x70000800) :=
  ⟨next_of (by decide), by decide⟩

/-- One step that halts, and one that does not. -/
theorem witness_HaltsExactlyWhenDrained :
    (step State.reset = .next (after State.reset) ∧ (after State.reset).notFaulted ∧
      (after State.reset).status = .halted) ∧
    (step (midOdd (.jmp 7) 0) = .next (after (midOdd (.jmp 7) 0)) ∧ (after (midOdd (.jmp 7) 0)).notFaulted ∧
      (after (midOdd (.jmp 7) 0)).status = .running) :=
  ⟨⟨next_of (by decide), by decide, by decide⟩, ⟨next_of (by decide), by decide, by decide⟩⟩

theorem witness_OnlyRunningStatesHaveANextCycle :
    (after State.reset).status ≠ .running ∧ (after (midOdd (.jmp 2048) 0)).status ≠ .running := by decide

theorem witness_RunningStatesAlwaysStep :
    (midMem (.movm 1 0 2048) (some 2048)).status = .running ∧ (midMem (.movm 1 0 2048) (some 2048)).LatchOk :=
  ⟨rfl, (midMem_inv rfl rfl).2.1⟩

/-- A state of the invariant that is running, with the given instruction about to complete Execute. -/
def Completing (s : State) (i : Instr) : Prop :=
  s.Inv ∧ s.status = .running ∧ ∃ (e : ExLatch), s.exLatch = some e ∧ e.ecnt = 1 ∧ e.ins = i

theorem witness_FaultsAreReportedInCycleOrder :
    (Completing (midOdd (.jeq 0 0 2047) 0) (.jeq 0 0 2047) ∧ ((0 : Word) + 1 + 2047).toNat = 2048) ∧
    (Completing (midOdd (.jmp 2048) 0) (.jmp 2048) ∧ (2048 : BitVec 28).toNat = 2048) ∧
    (Completing (midOdd (.movr 1 0 2048) 0xC0000000) (.movr 1 0 2048) ∧
      (((midOdd (.movr 1 0 2048) 0xC0000000).archView 0).readReg 0 + 2048).toNat = 2048 ∧
      12 ≤ (fieldOp 0xC0000000).toNat) ∧
    (Completing (midOdd (.movm 1 0 2048) 0xBFFFFFFF) (.movm 1 0 2048) ∧
      (((midOdd (.movm 1 0 2048) 0xBFFFFFFF).archView 0).readReg 0 + 2048).toNat = 2048 ∧
      (fieldOp 0xBFFFFFFF).toNat ≤ 11) := by
  refine ⟨⟨⟨midOdd_inv rfl, rfl, _, rfl, rfl, rfl⟩, by decide⟩, ⟨⟨midOdd_inv rfl, rfl, _, rfl, rfl, rfl⟩, by decide⟩,
    ⟨⟨midOdd_inv rfl, rfl, _, rfl, rfl, rfl⟩, by decide, by decide⟩,
    ⟨⟨midOdd_inv rfl, rfl, _, rfl, rfl, rfl⟩, by decide, by decide⟩⟩

theorem witness_MemoryFaultNeverSharesItsCycle :
    (midMem (.movm 1 0 2048) (some 2048)).Inv ∧ (midMem (.movm 1 0 2048) (some 2048)).memLatch ≠ none :=
  ⟨midMem_inv rfl rfl, by decide⟩

/-! ### Invariants of the pipeline -/

theorem witness_LoadedProgramsSatisfyTheInvariant :
    (∃ (s : State), State.loadImage [0x00886000, 0x32000009] = .ok s) ∧
    (∃ (t : State), State.reset.Inv ∧ State.reset.preloadReg 31 5 = .ok t) ∧
    (∃ (t : State), State.reset.Inv ∧ State.reset.preloadWord 2047 5 = .ok t) :=
  ⟨⟨_, rfl⟩, ⟨_, reset_inv, rfl⟩, ⟨_, reset_inv, rfl⟩⟩

theorem witness_StepKeepsThePipelineInvariant :
    (midOdd (.jmp 7) 0).Inv ∧ step (midOdd (.jmp 7) 0) = .next (after (midOdd (.jmp 7) 0)) :=
  ⟨midOdd_inv rfl, next_of (by decide)⟩

/-- A fetch of the last word of a full memory takes the PC to 2048 (R26, conflict C11). -/
theorem witness_StepKeepsPcInRange :
    ({ State.reset with icount := 2048, pc := 2047 } : State).ArchOk ∧
      step { State.reset with icount := 2048, pc := 2047 } =
        .next (after { State.reset with icount := 2048, pc := 2047 }) ∧
      (after { State.reset with icount := 2048, pc := 2047 }).pc = 2048 :=
  ⟨by decide, next_of (by decide), by decide⟩

theorem witness_StructuralStallNeverOccurs :
    (∃ (s1 : State) (s2 : State) (s3 : State) (d : IdLatch), (midOdd (.add 1 2 3) 0).Inv ∧ (midOdd (.add 1 2 3) 0).status = .running ∧
      writeBackStage (midOdd (.add 1 2 3) 0).beginCycle = .next s1 ∧ memoryStage s1 = .next s2 ∧
      executeStage s2 = .next s3 ∧ s3.idLatch = some d ∧ countDown d.dcnt = 0) ∧
    (let s := midEven (.add 1 2 3) 0
     s.Inv ∧ s.idLatch = some ⟨0, 1, 2⟩ ∧ step s = .next (after s) ∧ (after s).notFaulted ∧
       step (after s) = .next (after (after s)) ∧ (after (after s)).notFaulted ∧ (after (after s)).fsup = 0) :=
  ⟨⟨_, _, _, _, midOdd_inv rfl, rfl, rfl, rfl, rfl, rfl, rfl⟩,
    ⟨midEven_inv rfl, rfl, next_of (by decide), by decide, next_of (by decide), by decide, by decide⟩⟩

theorem witness_ExecuteTakesTwoCyclesThenMemThenWriteBack :
    let s := midEven (.movr 1 0 2047) 0
    s.Inv ∧ s.exLatch = some ⟨encode (.movr 1 0 2047), 0, .movr 1 0 2047, 2⟩ ∧ step s = .next (after s) ∧
      (after s).notFaulted ∧ step (after s) = .next (after (after s)) ∧ (after (after s)).notFaulted ∧
      step (after (after s)) = .next (after (after (after s))) ∧ (after (after (after s))).notFaulted ∧
      step (after (after (after s))) = .next (after (after (after (after s)))) ∧
      (after (after (after (after s)))).notFaulted :=
  ⟨midEven_inv rfl, rfl, next_of (by decide), by decide, next_of (by decide), by decide, next_of (by decide), by decide,
    next_of (by decide), by decide⟩

theorem witness_TakenBranchDiscardsEveryYoungerInstruction :
    Completing (midOdd (.jmp 7) 0) (.jmp 7) ∧ step (midOdd (.jmp 7) 0) = .next (after (midOdd (.jmp 7) 0)) ∧
      (after (midOdd (.jmp 7) 0)).notFaulted ∧ (after (midOdd (.jmp 7) 0)).fsup ≠ 0 :=
  ⟨⟨midOdd_inv rfl, rfl, _, rfl, rfl, rfl⟩, next_of (by decide), by decide, by decide⟩

theorem witness_PcRunsAheadOfExecute : Completing (midOdd (.add 1 2 3) 0) (.add 1 2 3) :=
  ⟨midOdd_inv rfl, rfl, _, rfl, rfl, rfl⟩

/-- The last address below icount. -/
theorem witness_BranchTargetCompletesSixCyclesLater :
    let t := after (midOdd (.jmp 7) 0)
    Completing (midOdd (.jmp 7) 0) (.jmp 7) ∧ step (midOdd (.jmp 7) 0) = .next t ∧ t.notFaulted ∧ t.fsup ≠ 0 ∧
      t.pc.toNat < t.icount.val ∧ t.pc.toNat + 1 = t.icount.val ∧
      decode (t.memory.read t.pc.toNat) = .ok (.add 0 0 0) :=
  ⟨⟨midOdd_inv rfl, rfl, _, rfl, rfl, rfl⟩, next_of (by decide), by decide, by decide, by decide, by decide, rfl⟩

/-- The first address past the program. -/
theorem witness_BranchOutOfTheProgramHalts :
    let t := after (midOdd (.jmp 8) 0)
    Completing (midOdd (.jmp 8) 0) (.jmp 8) ∧ step (midOdd (.jmp 8) 0) = .next t ∧ t.notFaulted ∧ t.fsup ≠ 0 ∧
      t.icount.val ≤ t.pc.toNat ∧ t.icount.val = t.pc.toNat :=
  ⟨⟨midOdd_inv rfl, rfl, _, rfl, rfl, rfl⟩, next_of (by decide), by decide, by decide, by decide, by decide⟩

theorem witness_PipelineRunsInstructionsInProgramOrder :
    let s := (midOdd (.movm 3 0 2047) 0).writeReg 3 42
    Completing s (.movm 3 0 2047) ∧ step s = .next (after s) ∧ (after s).notFaulted ∧
      step (after s) = .next (after (after s)) ∧ (after (after s)).notFaulted :=
  ⟨⟨⟨⟨rfl, (midOdd_inv (i := .movm 3 0 2047) (word := 0) rfl).1.2⟩, (midOdd_inv (i := .movm 3 0 2047) (word := 0) rfl).2⟩, rfl, _, rfl, rfl, rfl⟩, next_of (by decide), by decide, next_of (by decide), by decide⟩

/-! ### The host's side -/

theorem witness_LoadedStateIsAsReset :
    ([] : List Word).length ≤ 2048 ∧ (List.replicate 2048 (5 : Word)).length ≤ 2048 ∧
      [(0x00886000 : Word)][0]? = some 0x00886000 :=
  ⟨by decide, le_of_eq List.length_replicate, rfl⟩

/-- The boundaries of the data space are icount and 2047; the last program word and address 2048 are outside it. -/
theorem witness_PreloadSetsOnlyItsPlace :
    State.reset.cycle = 0 ∧ (31 : RegIdx) ≠ 0 ∧ State.reset.icount.val ≤ 0 ∧ 2047 < 2048 ∧ State.reset.memory.wf ∧
      (after State.reset).cycle ≠ 0 ∧
      (let s : State := { State.reset with icount := 8 }
       s.cycle = 0 ∧ 7 < s.icount.val ∧ s.icount.val ≤ 8 ∧ 2048 ≤ 2048) := by decide

/-- A source text of `n` lines that each hold `JMP 5`, and an empty last line. -/
def manyJumps : Nat → List Char
  | 0 => []
  | n + 1 => 'J' :: 'M' :: 'P' :: ' ' :: '5' :: '\n' :: manyJumps n

theorem sourceLines_manyJumps (n : Nat) :
    sourceLines (manyJumps n) = List.replicate n ['J', 'M', 'P', ' ', '5'] ++ [[]] := by
  induction n with
  | zero => rfl
  | succ n ih =>
    have h : sourceLines (manyJumps (n + 1)) = ['J', 'M', 'P', ' ', '5'] :: sourceLines (manyJumps n) := rfl
    rw [h, ih, List.replicate_succ, List.cons_append]

theorem acceptedWords_replicate_jump (n : Nat) :
    (acceptedWords (List.replicate n ['J', 'M', 'P', ' ', '5'] ++ [[]])).length = n := by
  induction n with
  | zero => rfl
  | succ n ih =>
    have h : acceptedWords (List.replicate (n + 1) ['J', 'M', 'P', ' ', '5'] ++ [[]]) =
        0x70000005 :: acceptedWords (List.replicate n ['J', 'M', 'P', ' ', '5'] ++ [[]]) := rfl
    rw [h, List.length_cons, ih]

/-- Texts of 2049 accepted lines, one more than fit, and an image of 2049 words. -/
theorem tooManyLines : 2048 < (acceptedWords (sourceLines (manyJumps 2049))).length := by
  rw [sourceLines_manyJumps, acceptedWords_replicate_jump]
  decide

theorem witness_ImageIsTheAcceptedLinesInOrder :
    (∃ a, assembleLines 1 [['F', 'O', 'O'], ['J', 'M', 'P', ' ', '5']] = .ok a) ∧
    (∃ a, assemble ['F', 'O', 'O', '\n', 'J', 'M', 'P', ' ', '5', '\n'] = .ok a ∧ a.skipped = [1]) ∧
    2048 < (acceptedWords (sourceLines (manyJumps 2049))).length ∧
    2048 < (List.replicate 2049 (5 : Word)).length :=
  ⟨⟨_, rfl⟩, ⟨_, rfl, rfl⟩, tooManyLines, lt_of_lt_of_eq (by decide) List.length_replicate.symm⟩

/-- A run that is cut short, one that halts, one that faults, and a state of the invariant. -/
theorem witness_CutShortRunsAreStillRunning :
    (∃ (t : State), drive 0 State.reset = .outOfFuel t) ∧ (∃ (t : State), drive 1 State.reset = .halted t) ∧
      (∃ (r : FaultRecord) (t : State), drive 1 (midOdd (.jmp 2048) 0) = .faulted r t) ∧
      (midOdd (.jmp 2048) 0).Inv ∧
      steps 1 State.reset = .next (after State.reset) ∧ (after State.reset).status = .halted :=
  ⟨⟨_, rfl⟩, ⟨after State.reset, by decide⟩, ⟨_, after (midOdd (.jmp 2048) 0), rfl⟩, midOdd_inv rfl, rfl,
    by decide⟩

theorem byteLength_replicate_semicolon (n : Nat) : byteLength (List.replicate n ';') = n := by
  induction n with
  | zero => rfl
  | succ n ih =>
    rw [List.replicate_succ, byteLength, ih]
    exact Nat.add_comm 1 n

/-- A line of 129 bytes, one of 128, a line with a register out of range, and 2049 accepted lines. -/
theorem witness_SourceIsRefusedExactlyForBadLines :
    refusesProgram (List.replicate 129 ';') ∧ ¬refusesProgram (List.replicate 128 ';') ∧
      refusesProgram ['J', 'M', 'P', ' ', 'R', '5'] ∧
      2048 < (acceptedWords (sourceLines (manyJumps 2049))).length :=
  ⟨.inl (by rw [byteLength_replicate_semicolon]; decide),
    fun h => h.elim (fun h => by rw [byteLength_replicate_semicolon] at h; exact absurd h (by decide)) nofun,
    .inr rfl, tooManyLines⟩

/-- The two ends of the immediate's range, and the first value past its upper end. -/
theorem witness_AssembledProgramsAreLoaded :
    (∀ i ∈ [Instr.movi 1 0 131071, .movi 1 0 0xFFFE0000], i.wellFormed = true) ∧
      (Instr.movi 1 0 131072).wellFormed = false ∧
      parseTokens (lineTokens ['J', 'M', 'P', ' ', '5']) = .accepted (.jmp 5) ∧
      ∃ a, assemble ['J', 'M', 'P', ' ', '5', '\n'] = .ok a :=
  ⟨by decide, by decide, rfl, ⟨_, rfl⟩⟩

/-- Two states alike but for the model's own field; a running one and its faulted successor do not look alike. -/
theorem witness_ObservationShowsTheWholeState :
    (midOdd (.jmp 2048) 0).regs.get 0 = 0 ∧ ((midOdd (.jmp 2048) 0).actAt .memory).regs.get 0 = 0 ∧
      (midOdd (.jmp 2048) 0).observe = ((midOdd (.jmp 2048) 0).actAt .memory).observe ∧
      (midOdd (.jmp 2048) 0).observe ≠ (after (midOdd (.jmp 2048) 0)).observe :=
  ⟨rfl, rfl, rfl, by decide⟩

end Sys2Proof.Tests
end

/-! ## Reading memory back (R37, R52, R53, R232) -/

namespace Sys2Proof.Machine

/-- An address below every listed one reads as 0. -/
theorem Memory.read_of_forall_lt {m : Memory} {a : Nat} (h : ∀ c ∈ m, a < c.1) : m.read a = 0#32 := by
  induction m with
  | nil => rfl
  | cons c rest ih =>
    have hne : a ≠ c.1 := (h c List.mem_cons_self).ne
    simpa [Memory.read, hne] using ih fun d hd => h d (List.mem_cons_of_mem _ hd)

/-- In a canonical memory a write sets the word it names and no other. -/
theorem Memory.read_write {m : Memory} (h : m.wf) (a b : Nat) (v : Word) :
    (m.write a v).read b = if b = a then v else m.read b := by
  induction m with
  | nil =>
    by_cases hv : v = 0#32
    · simp [Memory.write, Memory.read, hv]
    · simp [Memory.write, Memory.read, hv]
  | cons c rest ih =>
    obtain ⟨k, u⟩ := c
    have hlt : ∀ d ∈ rest, k < d.1 := (List.pairwise_cons.1 h.1).1
    have below {x : Nat} (hx : x ≤ k) : Memory.read rest x = 0#32 :=
      Memory.read_of_forall_lt fun d hd => lt_of_le_of_lt hx (hlt d hd)
    rcases lt_trichotomy a k with hak | rfl | hka
    · by_cases hv : v = 0#32
      · by_cases hb : b = a
        · simp [Memory.write, Memory.read, hak, hv, hb, hak.ne, below hak.le]
        · simp [Memory.write, hak, hv, hb]
      · simp [Memory.write, Memory.read, hak, hv]
    · by_cases hb : b = a <;> by_cases hv : v = 0#32 <;> simp [Memory.write, Memory.read, hv, hb, below le_rfl]
    · have hw : Memory.write ((k, u) :: rest) a v = (k, u) :: Memory.write rest a v := by
        simp [Memory.write, hka.not_gt, hka.ne']
      by_cases hb : b = k
      · simp [hw, Memory.read, hb, hka.ne]
      · simp [hw, Memory.read, hb, ih (Memory.wf_tail h)]

/-- Consecutive writes from `k` put word `j` at `k + j` and change no other address (R232). -/
theorem Memory.read_writeFrom (words : List Word) {k : Nat} {m : Memory} (h : m.wf)
    (hk : k + words.length ≤ Config.memWords) (a : Nat) :
    (Memory.writeFrom k words m).read a = if k ≤ a then (words[a - k]?).getD (m.read a) else m.read a := by
  induction words generalizing k m with
  | nil => simp [Memory.writeFrom]
  | cons w ws ih =>
    simp only [List.length_cons] at hk
    rw [Memory.writeFrom, ih (Memory.write_wf w h (by omega)) (by omega), Memory.read_write h]
    rcases lt_trichotomy a k with ha | rfl | ha
    · simp [ha.ne, ha.not_ge, show ¬k + 1 ≤ a by omega]
    · simp
    · obtain ⟨j, rfl⟩ : ∃ j, a = k + 1 + j := ⟨a - (k + 1), by omega⟩
      simp [show k + 1 + j - k = j + 1 by omega, show k + 1 + j ≠ k by omega, show k ≤ k + 1 + j by omega]

/-- Every register reads 0 after reset (R39). -/
theorem State.reset_readReg (i : RegIdx) : State.reset.readReg i = 0 := by
  simp [State.readReg, State.reset, Vector.get]

end Sys2Proof.Machine

/-! ## What a cycle changes, stage by stage (40_pipeline.md R100 to R126) -/

namespace Sys2Proof.Machine

variable {i : Instr} {s t : State}

/-! ### Registers (R21, R22) -/

/-- A write to a register other than 0 is read back there, and no other register changes. -/
theorem State.readReg_writeReg (s : State) {r : RegIdx} (hr : r ≠ 0) (j : RegIdx) (v : Word) :
    (s.writeReg r v).readReg j = if j = r then v else s.readReg j := by
  have hset : (s.regs.set r v).get j = if j = r then v else s.regs.get j := by
    simp only [Vector.get_eq_getElem, Vector.getElem_set, Fin.ext_iff, eq_comm (a := r.val)]
  by_cases h0 : j = 0
  · simp [State.readReg, h0, hr.symm]
  · simp [State.readReg, h0, hr, hset]

/-! ### Write-back and Memory (R104 to R106) -/

/-- The pending write of WB, by the table of R105. -/
theorem WbLatch.pending_eq_some {b : WbLatch} {r : RegIdx} {v : Word} :
    b.pending = some (r, v) ↔
      wbAction b.ins = .writeAlu r ∧ b.alu = some v ∨ wbAction b.ins = .writeMdr r ∧ b.mdr = some v := by
  unfold WbLatch.pending
  cases wbAction b.ins <;> simp [and_comm]

/-- Settling the registers writes at most one register, never register 0, and only what WB holds (R22, R104). -/
theorem State.settledRegs_cases (s : State) :
    s.settledRegs = s.regs ∨
      ∃ b r v, s.wbLatch = some b ∧ b.pending = some (r, v) ∧ r ≠ 0 ∧ s.settledRegs = s.regs.set r v := by
  unfold State.settledRegs
  cases hb : s.wbLatch with
  | none => exact .inl rfl
  | some b =>
    cases hp : b.pending with
    | none => exact .inl (by simp [hp])
    | some p =>
      obtain ⟨r, v⟩ := p
      by_cases hr : r = 0
      · exact .inl (by simp [hp, hr])
      · exact .inr ⟨b, r, v, rfl, hp, hr, by simp [hp, hr]⟩

/-- Settling the registers leaves register 0 as it is (R21, R22). -/
theorem State.settledRegs_get_zero (s : State) : s.settledRegs.get 0 = s.regs.get 0 := by
  rcases s.settledRegs_cases with h | ⟨b, r, v, -, -, hr, h⟩
  · rw [h]
  · have hne : r.val ≠ 0 := fun h0 => hr (Fin.ext h0)
    simp [h, Vector.get, hne]

/-- Write-back settles the register file, empties WB and leaves the rest as it is (R104). -/
theorem writeBackStage_next_eq (h : writeBackStage s = .next t) :
    t = ({ s with regs := s.settledRegs, wbLatch := none } : State).actAt .writeBack := by
  rcases writeBackStage_next h with ⟨hb, rfl⟩ | ⟨b, hb, ⟨r, v, hp, rfl⟩ | ⟨hn, rfl⟩⟩
  · cases s; cases hb; rfl
  · have hs : s.settledRegs = (s.writeReg r v).regs := by
      simp [State.settledRegs, hb, WbLatch.pending_eq_some.2 hp]
    rw [hs]
    unfold State.writeReg
    split <;> rfl
  · have hs : s.settledRegs = s.regs := by simp [State.settledRegs, hb, WbLatch.pending, hn]
    rw [hs]; rfl

@[simp] theorem State.beginCycle_settledRegs (s : State) : s.beginCycle.settledRegs = s.settledRegs := by
  unfold State.settledRegs
  cases hb : s.wbLatch with
  | none => simp [hb]
  | some b => cases hp : b.pending <;> simp [hb, hp]

/-- The Memory stage changes the memory canonically, moves what MEM holds to WB and leaves the rest as it is (R106). -/
theorem memoryStage_next_eq (h : memoryStage s = .next t) :
    ∃ mem wb, t = ({ s with memory := mem, memLatch := none, wbLatch := wb } : State).actAt .memory ∧
      (s.memory.wf → mem.wf) ∧ (s.memLatch = none → wb = s.wbLatch) ∧
      ∀ m, s.memLatch = some m →
        ∃ mdr, mdr.isSome = carriesMdr m.ins ∧ wb = some ⟨m.word, m.ia, m.ins, m.alu, mdr⟩ := by
  rcases memoryStage_next h with ⟨hm, rfl⟩ | ⟨m, hm, ⟨hc, -, rfl⟩ | ⟨hc, a, -, -, rfl⟩ |
    ⟨hc, r1, r2, imm, a, -, -, ha, rfl⟩⟩
  · exact ⟨s.memory, s.wbLatch, by cases s; cases hm; rfl, id, fun _ => rfl, by simp [hm]⟩
  · exact ⟨_, _, rfl, id, by simp [hm], by simp [hm, hc]⟩
  · exact ⟨_, _, rfl, id, by simp [hm], by simp [hm, hc]⟩
  · exact ⟨_, _, rfl, fun hwf => Memory.write_wf _ hwf (inBounds_iff.1 ha), by simp [hm], by simp [hm, hc]⟩

/-- What the first two stages of a cycle leave: WB settled, the instruction of MEM in WB, and no change in the stages
before them (R104, R106). -/
structure BackEffect (s t : State) : Prop where
  regs : t.regs = s.settledRegs
  pc : t.pc = s.pc
  memory_wf : s.memory.wf → t.memory.wf
  ifLatch : t.ifLatch = s.ifLatch
  idLatch : t.idLatch = s.idLatch
  exLatch : t.exLatch = s.exLatch
  memLatch : t.memLatch = none
  wbLatch_of_none : s.memLatch = none → t.wbLatch = none
  wbLatch_of_some : ∀ m, s.memLatch = some m →
    ∃ mdr, mdr.isSome = carriesMdr m.ins ∧ t.wbLatch = some ⟨m.word, m.ia, m.ins, m.alu, mdr⟩
  fsup : t.fsup = s.fsup
  cycle : t.cycle = s.cycle + 1
  icount : t.icount = s.icount
  status : t.status = s.status

/-- The first two stages, where neither faults, have that effect. -/
theorem backEffect_of_stages {s1 : State} (h1 : writeBackStage s.beginCycle = .next s1)
    (h2 : memoryStage s1 = .next t) : BackEffect s t := by
  obtain rfl := writeBackStage_next_eq h1
  obtain ⟨mem, wb, rfl, hwf, hnone, hsome⟩ := memoryStage_next_eq h2
  exact { regs := s.beginCycle_settledRegs, pc := rfl, memory_wf := hwf, ifLatch := rfl, idLatch := rfl,
          exLatch := rfl, memLatch := rfl, wbLatch_of_none := hnone, wbLatch_of_some := hsome, fsup := rfl,
          cycle := rfl, icount := rfl, status := rfl }

/-! ### Execute and Decode (R108 to R120) -/

/-- The instruction at `ia` is a branch that is taken in `s`, to `a` (R190, R193). -/
def State.TakesBranch (s : State) (i : Instr) (ia a : Word) : Prop :=
  (∃ r1 r2 imm, i = .jeq r1 r2 imm ∧ s.registersEqual r1 r2 = true ∧ a = jeqTarget ia imm) ∨
    ∃ target, i = .jmp target ∧ a = jmpTarget s.pc target

/-- Only JEQ and JMP branch, and they carry no ALU result (R112). -/
theorem State.TakesBranch.carriesAlu {ia a : Word} (h : s.TakesBranch i ia a) : carriesAlu i = false := by
  rcases h with ⟨_, _, _, rfl, -⟩ | ⟨_, rfl, -⟩ <;> rfl

/-- Completing Execute moves the instruction to MEM, and a taken branch goes to its own target (R108, R190, R193). -/
theorem exec_execute_next_target {e : ExLatch} (ha : s.acting = .execute) (he : s.exLatch = some e)
    (h : exec i s = .next t) :
    (∃ v, v.isSome = carriesAlu i ∧ t = s.passToMem e v) ∨
      ∃ a, s.TakesBranch i e.ia a ∧ inBounds a = true ∧ t = (s.redirect a).passToMem e none := by
  cases i with
  | jeq r1 r2 imm =>
    rw [exec, execJeq, State.inStage_execute ha he] at h
    split at h
    · next heq =>
      obtain ⟨hb, rfl⟩ := State.finishTaken_eq_next.1 h
      exact .inr ⟨_, .inl ⟨r1, r2, imm, rfl, heq, rfl⟩, hb, rfl⟩
    · exact .inl ⟨none, rfl, (Host.Outcome.next.inj h).symm⟩
  | jmp target =>
    rw [exec, execJmp, State.inStage_execute ha he] at h
    obtain ⟨hb, rfl⟩ := State.finishTaken_eq_next.1 h
    exact .inr ⟨_, .inr ⟨target, rfl, rfl⟩, hb, rfl⟩
  | _ =>
    rcases exec_execute_next ha he h with hv | ⟨a, -, hc, -⟩
    · exact .inl hv
    · cases hc

/-- The four ways through the Execute stage: empty, counting down, completed, and completed with a branch taken
(R108). -/
theorem executeStage_cases (h : executeStage s = .next t) :
    (s.exLatch = none ∧ t = s.actAt .execute) ∨
      (∃ e, s.exLatch = some e ∧ countDown e.ecnt ≠ 0 ∧ t = (s.countExecute e).actAt .execute) ∨
      (∃ e v, s.exLatch = some e ∧ countDown e.ecnt = 0 ∧ v.isSome = carriesAlu e.ins ∧
        t = (s.actAt .execute).passToMem e v) ∨
      (∃ e a, s.exLatch = some e ∧ countDown e.ecnt = 0 ∧ s.TakesBranch e.ins e.ia a ∧ inBounds a = true ∧
        t = ((s.actAt .execute).redirect a).passToMem e none) := by
  rcases executeStage_next h with h0 | ⟨e, he, ⟨hz, ht⟩ | ⟨hz, hexec, -⟩⟩
  · exact .inl h0
  · exact .inr (.inl ⟨e, he, hz, ht⟩)
  · rcases exec_execute_next_target (e := { e with ecnt := countDown e.ecnt }) rfl rfl hexec with
      ⟨v, hv, rfl⟩ | ⟨a, hbr, hb, rfl⟩
    · exact .inr (.inr (.inl ⟨e, v, he, hz, hv, rfl⟩))
    · exact .inr (.inr (.inr ⟨e, a, he, hz, hbr, hb, rfl⟩))

/-- The fields that Execute and Decode leave as they are. -/
structure MiddleFrame (s t : State) : Prop where
  regs : t.regs = s.regs
  memory : t.memory = s.memory
  wbLatch : t.wbLatch = s.wbLatch
  cycle : t.cycle = s.cycle
  icount : t.icount = s.icount
  status : t.status = s.status

/-- Execute keeps the frame: it touches the PC, the suppression counter and the latches from IF to MEM alone. -/
theorem executeStage_frame (h : executeStage s = .next t) : MiddleFrame s t := by
  rcases executeStage_cases h with ⟨-, rfl⟩ | ⟨e, -, -, rfl⟩ | ⟨e, v, -, -, -, rfl⟩ | ⟨e, a, -, -, -, -, rfl⟩ <;>
    exact ⟨rfl, rfl, rfl, rfl, rfl, rfl⟩

/-- Decode keeps more: it touches ID and EX alone (R118). -/
theorem decodeStage_frame (h : decodeStage s = .next t) :
    MiddleFrame s t ∧ t.pc = s.pc ∧ t.ifLatch = s.ifLatch ∧ t.memLatch = s.memLatch ∧ t.fsup = s.fsup := by
  rcases decodeStage_next h with ⟨-, rfl⟩ | ⟨d, -, ⟨-, -, ins, -, rfl⟩ | ⟨-, rfl⟩⟩ <;>
    exact ⟨⟨rfl, rfl, rfl, rfl, rfl, rfl⟩, rfl, rfl, rfl, rfl⟩

/-! ### Fetch, transfer and drain check (R121, R125, R130) -/

/-- A suppressed fetch only counts down (R121). -/
theorem fetchStage_of_suppressed (h : s.fsup ≠ 0) : fetchStage s = { s with fsup := countDown s.fsup } := by
  simp [fetchStage, h]

/-- An unsuppressed fetch into an empty IF, below `icount` (R121, R123). -/
theorem fetchStage_eq_fetchWord (h0 : s.fsup = 0) (hf : s.ifLatch = none) (hlt : s.pc.toNat < s.icount.val) :
    fetchStage s = s.fetchWord := by
  simp [fetchStage, h0, hf, hlt]

/-- No fetch while IF is occupied or at the end of the program (R121). -/
theorem fetchStage_eq_self (h0 : s.fsup = 0) (h : s.ifLatch ≠ none ∨ s.icount.val ≤ s.pc.toNat) :
    fetchStage s = s := by
  rcases h with h | h
  · simp [fetchStage, h0, h]
  · simp [fetchStage, h0, h.not_gt]

@[simp] theorem transferStage_pc (s : State) : (transferStage s).pc = s.pc := by
  rcases transferStage_cases s with ⟨f, -, -, -, h⟩ | ⟨-, h⟩ <;> rw [h]

@[simp] theorem transferStage_fsup (s : State) : (transferStage s).fsup = s.fsup := by
  rcases transferStage_cases s with ⟨f, -, -, -, h⟩ | ⟨-, h⟩ <;> rw [h]

@[simp] theorem drainCheck_pc (s : State) : (drainCheck s).pc = s.pc := by
  unfold drainCheck; split <;> rfl
@[simp] theorem drainCheck_fsup (s : State) : (drainCheck s).fsup = s.fsup := by
  unfold drainCheck; split <;> rfl
@[simp] theorem drainCheck_ifLatch (s : State) : (drainCheck s).ifLatch = s.ifLatch := by
  unfold drainCheck; split <;> rfl
@[simp] theorem drainCheck_idLatch (s : State) : (drainCheck s).idLatch = s.idLatch := by
  unfold drainCheck; split <;> rfl

/-- Nothing moves from IF to ID where IF is empty, in the first cycle, or while ID is occupied (R125, R126). -/
theorem transferStage_eq_self (h : s.ifLatch = none ∨ s.cycle ≤ 1 ∨ s.idLatch ≠ none) : transferStage s = s := by
  rcases transferStage_cases s with ⟨f, hf, hc, hd, -⟩ | ⟨-, ht⟩
  · rcases h with h | h | h
    · simp [hf] at h
    · omega
    · exact absurd hd h
  · exact ht

/-- After the first cycle a word in IF moves to an empty ID (R125). -/
theorem transferStage_eq_move {f : IfLatch} (hf : s.ifLatch = some f) (hc : 1 < s.cycle) (hd : s.idLatch = none) :
    transferStage s = { s with idLatch := some ⟨f.word, f.ia, Config.decLat⟩, ifLatch := none } := by
  simp [transferStage, hf, hc, hd]

/-! ### The whole cycle (R102) -/

/-- A cycle that does not fault, with its first two stages summed up. -/
theorem runCycle_next (h : runCycle s = .next t) :
    ∃ s2 s3 s4, BackEffect s s2 ∧ executeStage s2 = .next s3 ∧ decodeStage s3 = .next s4 ∧
      t = drainCheck (transferStage (fetchStage s4)) := by
  obtain ⟨s1, s2, s3, s4, h1, h2, h3, h4, ht⟩ := runCycle_eq_next.1 h
  exact ⟨s2, s3, s4, backEffect_of_stages h1 h2, h3, h4, ht⟩

/-- What every cycle that does not fault does to the registers, the memory, WB, the counters and the status. -/
structure CycleEffect (s t : State) : Prop where
  regs : t.regs = s.settledRegs
  memory_wf : s.memory.wf → t.memory.wf
  wbLatch_of_none : s.memLatch = none → t.wbLatch = none
  wbLatch_of_some : ∀ m, s.memLatch = some m →
    ∃ mdr, mdr.isSome = carriesMdr m.ins ∧ t.wbLatch = some ⟨m.word, m.ia, m.ins, m.alu, mdr⟩
  cycle : t.cycle = s.cycle + 1
  icount : t.icount = s.icount
  status : t.status = s.status ∧ ¬t.drained ∨ t.status = .halted ∧ t.drained

/-- From the effect of the first two stages and the frames of the later ones. -/
theorem cycleEffect_of_runCycle (h : runCycle s = .next t) : CycleEffect s t := by
  obtain ⟨s2, s3, s4, back, h3, h4, rfl⟩ := runCycle_next h
  have mid3 := executeStage_frame h3
  have mid4 := (decodeStage_frame h4).1
  obtain ⟨hregs, hmem, -, -, hwb, hic, hcy, -, hst⟩ := frontStages_frame s4
  have hwb2 : (drainCheck (transferStage (fetchStage s4))).wbLatch = s2.wbLatch := by
    rw [hwb, mid4.wbLatch, mid3.wbLatch]
  exact {
    regs := by rw [hregs, mid4.regs, mid3.regs, back.regs]
    memory_wf := fun hwf => by rw [hmem, mid4.memory, mid3.memory]; exact back.memory_wf hwf
    wbLatch_of_none := fun hm => by rw [hwb2]; exact back.wbLatch_of_none hm
    wbLatch_of_some := fun m hm => by rw [hwb2]; exact back.wbLatch_of_some m hm
    cycle := by rw [hcy, mid4.cycle, mid3.cycle, back.cycle]
    icount := by rw [hic, mid4.icount, mid3.icount, back.icount]
    status := by rwa [mid4.status, mid3.status, back.status] at hst }

/-- From a running state such a cycle ends running or halted. -/
theorem CycleEffect.notFaulted (effect : CycleEffect s t) (hrun : s.status = .running) : t.notFaulted := by
  rcases effect.status with ⟨hst, -⟩ | ⟨hst, -⟩ <;> simp [State.notFaulted, hst, hrun, Status.faultCycle]

/-- The PC of a cycle that does not fault: as it was, one on by a fetch below `icount`, or the target of a branch that
completes Execute (R25, R123, R190, R193). -/
theorem runCycle_pc (h : runCycle s = .next t) :
    t.pc = s.pc ∨ (t.pc = s.pc + 1 ∧ s.pc.toNat < s.icount.val) ∨
      ∃ e s2, s.exLatch = some e ∧ countDown e.ecnt = 0 ∧ BackEffect s s2 ∧ s2.TakesBranch e.ins e.ia t.pc ∧
        inBounds t.pc = true := by
  obtain ⟨s2, s3, s4, back, h3, h4, rfl⟩ := runCycle_next h
  have mid3 := executeStage_frame h3
  obtain ⟨mid4, hpc4, -, -, hfs4⟩ := decodeStage_frame h4
  simp only [drainCheck_pc, transferStage_pc]
  have straight (hpc : s3.pc = s2.pc) :
      (fetchStage s4).pc = s.pc ∨ (fetchStage s4).pc = s.pc + 1 ∧ s.pc.toNat < s.icount.val := by
    have hpc : s4.pc = s.pc := by rw [hpc4, hpc, back.pc]
    have hic : s4.icount = s.icount := by rw [mid4.icount, mid3.icount, back.icount]
    rcases fetchStage_cases s4 with ⟨-, hf⟩ | ⟨-, -, hlt, hf⟩ | ⟨-, -, hf⟩ <;> rw [hf]
    · exact .inl hpc
    · exact .inr ⟨by simp [hpc], by rwa [hpc, hic] at hlt⟩
    · exact .inl hpc
  rw [← or_assoc]
  rcases executeStage_cases h3 with ⟨-, rfl⟩ | ⟨e, -, -, rfl⟩ | ⟨e, v, -, -, -, rfl⟩ | ⟨e, a, he, hz, hbr, hb, rfl⟩
  · exact .inl (straight rfl)
  · exact .inl (straight rfl)
  · exact .inl (straight rfl)
  · right
    have hsup : s4.fsup ≠ 0 := by rw [hfs4]; exact (by decide : (2 : Count) ≠ 0)
    have hpc : (fetchStage s4).pc = a := by rw [fetchStage_of_suppressed hsup]; exact hpc4
    exact ⟨e, s2, by rw [← back.exLatch, he], hz, back, by rwa [hpc], by rwa [hpc]⟩

end Sys2Proof.Machine

/-! ## The invariant of the pipeline over one cycle (40_pipeline.md R140 to R145) -/

namespace Sys2Proof.Machine

variable {s t : State}

/-! ### The cycle a fault record names (R204, R205) -/

/-- A fault of the Write-back stage carries a record of the cycle of the working copy; so it is in every stage below. -/
theorem writeBackStage_fault {r : Fault} (h : writeBackStage s = .fault r) :
    ∃ q, r = .raised q ∧ q.cycle = s.cycle := by
  unfold writeBackStage at h
  split at h
  · cases h
  · exact (exec_fault h :)

theorem memoryStage_fault {r : Fault} (h : memoryStage s = .fault r) : ∃ q, r = .raised q ∧ q.cycle = s.cycle := by
  unfold memoryStage at h
  split at h
  · cases h
  · exact (exec_fault h :)

theorem executeStage_fault {r : Fault} (h : executeStage s = .fault r) : ∃ q, r = .raised q ∧ q.cycle = s.cycle := by
  unfold executeStage at h
  split at h
  · cases h
  · split at h
    · exact (exec_fault h :)
    · cases h

theorem decodeStage_fault {r : Fault} (h : decodeStage s = .fault r) : ∃ q, r = .raised q ∧ q.cycle = s.cycle := by
  unfold decodeStage at h
  split at h
  · cases h
  · split at h
    · split at h
      · cases h
      · cases h; exact ⟨_, rfl, rfl⟩
    · cases h

/-- A fault of a cycle is one that a stage raised, and its record names that cycle. -/
theorem runCycle_fault {r : Fault} (h : runCycle s = .fault r) : ∃ q, r = .raised q ∧ q.cycle = s.cycle + 1 := by
  simp only [runCycle, andThen_eq_fault] at h
  rcases h with h1 | ⟨s1, h1, h2 | ⟨s2, h2, h3 | ⟨s3, h3, h4 | ⟨s4, -, h5⟩⟩⟩⟩
  · exact writeBackStage_fault h1
  · obtain rfl := writeBackStage_next_eq h1
    exact memoryStage_fault h2
  all_goals have back := backEffect_of_stages h1 h2
  · rw [← back.cycle]
    exact executeStage_fault h3
  · rw [← back.cycle, ← (executeStage_frame h3).cycle]
    exact decodeStage_fault h4
  · cases h5

/-- A faulted state keeps the invariant: nothing but the status changes (R204). -/
theorem State.Inv.enterFault {q : FaultRecord} (h : s.Inv) (hq : q.cycle = s.cycle + 1) : (s.enterFault q).Inv := by
  obtain ⟨harch, hlatch, htiming, horder, -⟩ := h
  exact ⟨harch, hlatch, htiming, horder, nofun, fun c hc => by cases hc; exact hq⟩

/-! ### Registers, memory and PC (R21, R26) -/

theorem inBounds_le {a : Word} (h : inBounds a = true) : a.toNat ≤ Config.memWords := (inBounds_iff.1 h).le

/-- A cycle that does not fault keeps register 0, the canonical memory and the range of the PC. -/
theorem runCycle_archOk (h : runCycle s = .next t) (hs : s.ArchOk) : t.ArchOk := by
  obtain ⟨hzero, hwf, hpc⟩ := hs
  have effect := cycleEffect_of_runCycle h
  refine ⟨by rw [effect.regs, s.settledRegs_get_zero, hzero], effect.memory_wf hwf, ?_⟩
  rcases runCycle_pc h with ht | ⟨ht, hlt⟩ | ⟨e, s2, -, -, -, -, hb⟩
  · rwa [ht]
  · have hic : s.icount.val ≤ 2048 := Nat.le_of_lt_succ s.icount.isLt
    rw [ht, BitVec.toNat_add]
    exact (Nat.mod_le _ _).trans (hlt.trans_le hic)
  · exact inBounds_le hb

/-! ### Latch contents (R30, R109) -/

/-- A cycle that does not fault keeps the contents of the latches. -/
theorem runCycle_latchOk (h : runCycle s = .next t) (hs : s.LatchOk) : t.LatchOk := by
  obtain ⟨hex, hmem, -⟩ := hs
  obtain ⟨s2, s3, s4, back, h3, h4, rfl⟩ := runCycle_next h
  have effect := cycleEffect_of_runCycle h
  obtain ⟨-, -, hexT, hmemT, -⟩ := frontStages_frame s4
  obtain ⟨-, -, -, hmem4, -⟩ := decodeStage_frame h4
  rw [hmem4] at hmemT
  have hex2 : ∀ e ∈ s2.exLatch, decode e.word = .ok e.ins ∧ e.ecnt ≠ 0 := by rwa [back.exLatch]
  have hex3 : ∀ e ∈ s3.exLatch, decode e.word = .ok e.ins ∧ e.ecnt ≠ 0 := by
    rcases executeStage_cases h3 with ⟨-, rfl⟩ | ⟨e, he, hz, rfl⟩ | ⟨e, v, -, -, -, rfl⟩ | ⟨e, a, -, -, -, -, rfl⟩
    · exact hex2
    · rintro _ ⟨⟩
      exact ⟨(hex2 e he).1, hz⟩
    · exact nofun
    · exact nofun
  have hmem3 : ∀ m ∈ s3.memLatch, decode m.word = .ok m.ins ∧ m.alu.isSome = carriesAlu m.ins := by
    rcases executeStage_cases h3 with ⟨-, rfl⟩ | ⟨e, -, -, rfl⟩ | ⟨e, v, he, -, hv, rfl⟩ |
      ⟨e, a, he, -, hbr, -, rfl⟩
    · simp [back.memLatch]
    · simp [back.memLatch]
    · rintro _ ⟨⟩
      exact ⟨(hex2 e he).1, hv⟩
    · rintro _ ⟨⟩
      exact ⟨(hex2 e he).1, hbr.carriesAlu.symm⟩
  refine ⟨?_, by rwa [hmemT], ?_⟩
  · rw [hexT]
    rcases decodeStage_next h4 with ⟨-, rfl⟩ | ⟨d, -, ⟨-, -, ins, hins, rfl⟩ | ⟨-, rfl⟩⟩
    · exact hex3
    · rintro _ ⟨⟩
      exact ⟨hins, (by decide : Config.exLat ≠ 0)⟩
    · exact hex3
  · cases hm : s.memLatch with
    | none => simp [effect.wbLatch_of_none hm]
    | some m =>
      obtain ⟨mdr, hmdr, hwb⟩ := effect.wbLatch_of_some m hm
      rw [hwb]
      rintro _ ⟨⟩
      exact ⟨(hmem m hm).1, (hmem m hm).2, hmdr⟩

/-! ### The front of the pipeline in one cycle (R121 to R126) -/

/-- The PC, IF, ID and the suppression counter of a state. -/
structure State.FrontIs (s : State) (pc : Word) (ifLatch : Option IfLatch) (idLatch : Option IdLatch)
    (fsup : Count) : Prop where
  pc : s.pc = pc
  ifLatch : s.ifLatch = ifLatch
  idLatch : s.idLatch = idLatch
  fsup : s.fsup = fsup

/-- A suppressed fetch into an empty IF changes the suppression counter alone. -/
theorem frontStages_of_suppressed (h : s.fsup ≠ 0) (hif : s.ifLatch = none) :
    (drainCheck (transferStage (fetchStage s))).FrontIs s.pc none s.idLatch (countDown s.fsup) := by
  rw [fetchStage_of_suppressed h, transferStage_eq_self (s := { s with fsup := countDown s.fsup }) (.inl hif)]
  exact ⟨by simp, by simp [hif], by simp, by simp⟩

/-- At the end of the program an empty IF stays empty. -/
theorem frontStages_of_ended (h : s.fsup = 0) (hif : s.ifLatch = none) (hend : s.icount.val ≤ s.pc.toNat) :
    (drainCheck (transferStage (fetchStage s))).FrontIs s.pc none s.idLatch 0 := by
  rw [fetchStage_eq_self h (.inr hend), transferStage_eq_self (.inl hif)]
  exact ⟨by simp, by simp [hif], by simp, by simp [h]⟩

/-- A fetched word stays in IF in the first cycle and behind an occupied ID. -/
theorem frontStages_of_fetch_stay (h : s.fsup = 0) (hif : s.ifLatch = none) (hlt : s.pc.toNat < s.icount.val)
    (hstay : s.cycle ≤ 1 ∨ s.idLatch ≠ none) :
    (drainCheck (transferStage (fetchStage s))).FrontIs (s.pc + 1) (some ⟨s.memory.read s.pc.toNat, s.pc⟩)
      s.idLatch 0 := by
  rw [fetchStage_eq_fetchWord h hif hlt, transferStage_eq_self (s := s.fetchWord) (.inr hstay)]
  exact ⟨by simp, by simp, by simp, by simp [h]⟩

/-- A fetched word moves on to an empty ID in the same cycle. -/
theorem frontStages_of_fetch_move (h : s.fsup = 0) (hif : s.ifLatch = none) (hlt : s.pc.toNat < s.icount.val)
    (hcycle : 1 < s.cycle) (hid : s.idLatch = none) :
    (drainCheck (transferStage (fetchStage s))).FrontIs (s.pc + 1) none
      (some ⟨s.memory.read s.pc.toNat, s.pc, Config.decLat⟩) 0 := by
  rw [fetchStage_eq_fetchWord h hif hlt, transferStage_eq_move (State.fetchWord_ifLatch s) hcycle hid]
  exact ⟨by simp, by simp, by simp, by simp [h]⟩

/-- A word that waits in IF moves to an empty ID, and nothing is fetched. -/
theorem frontStages_of_waiting {f : IfLatch} (h : s.fsup = 0) (hif : s.ifLatch = some f) (hcycle : 1 < s.cycle)
    (hid : s.idLatch = none) :
    (drainCheck (transferStage (fetchStage s))).FrontIs s.pc none (some ⟨f.word, f.ia, Config.decLat⟩) 0 := by
  rw [fetchStage_eq_self h (.inl (by simp [hif])), transferStage_eq_move hif hcycle hid]
  exact ⟨by simp, by simp, by simp, by simp [h]⟩

/-! ### The cycle after an even number of cycles (R142, R143) -/

/-- ID and EX count down, and Fetch fills IF unless it is suppressed or the program has ended. -/
structure EvenCycle (s t : State) : Prop where
  exLatch : t.exLatch = s.exLatch.map fun e => { e with ecnt := 1 }
  idLatch : t.idLatch = s.idLatch.map fun d => { d with dcnt := 1 }
  memLatch : t.memLatch = none
  fsup : t.fsup = 0
  front : (t.pc = s.pc ∧ t.ifLatch = none ∧ (s.fsup ≠ 0 ∨ s.icount.val ≤ s.pc.toNat)) ∨
    (t.pc = s.pc + 1 ∧ (∃ w, t.ifLatch = some ⟨w, s.pc⟩) ∧ s.pc.toNat < s.icount.val ∧
      (s.cycle = 0 ∨ s.idLatch ≠ none))

/-- Execute counts an instruction down from two cycles to one. -/
theorem executeStage_of_fresh (hs : ∀ e ∈ s.exLatch, e.ecnt = 2) (h : executeStage s = .next t) :
    t = ({ s with exLatch := s.exLatch.map fun e => { e with ecnt := 1 } } : State).actAt .execute := by
  have hcount (e : ExLatch) (he : s.exLatch = some e) : countDown e.ecnt = 1 := by rw [hs e he]; rfl
  rcases executeStage_cases h with ⟨he, rfl⟩ | ⟨e, he, -, rfl⟩ | ⟨e, v, he, hz, -⟩ | ⟨e, a, he, hz, -⟩
  · cases s; cases he; rfl
  · simp [State.countExecute, he, hcount e he]
  · simp [hcount e he] at hz
  · simp [hcount e he] at hz

/-- Decode counts a word down from two cycles to one. -/
theorem decodeStage_of_fresh (hs : ∀ d ∈ s.idLatch, d.dcnt = 2) (h : decodeStage s = .next t) :
    t = { s with idLatch := s.idLatch.map fun d => { d with dcnt := 1 } } := by
  have hcount (d : IdLatch) (hd : s.idLatch = some d) : countDown d.dcnt = 1 := by rw [hs d hd]; rfl
  rcases decodeStage_next h with ⟨hd, rfl⟩ | ⟨d, hd, ⟨hz, -⟩ | ⟨-, rfl⟩⟩
  · cases t; cases hd; rfl
  · simp [hcount d hd] at hz
  · simp [State.countDecode, hd, hcount d hd]

/-- With fresh counters Execute completes nothing and Decode hands nothing on, so IF alone can change its occupant. -/
theorem evenCycle_of_runCycle (hs : s.EvenOk) (h : runCycle s = .next t) : EvenCycle s t := by
  obtain ⟨hif, -, hid, hex, hsup, hfill⟩ := hs
  obtain ⟨s2, s3, s4, back, h3, h4, rfl⟩ := runCycle_next h
  have e3 := executeStage_of_fresh (by rwa [back.exLatch]) h3
  have e4 := decodeStage_of_fresh (by rw [e3]; simpa [back.idLatch] using hid) h4
  have hpc4 : s4.pc = s.pc := by rw [e4, e3]; exact back.pc
  have hif4 : s4.ifLatch = none := by rw [e4, e3]; exact back.ifLatch.trans hif
  have hid4 : s4.idLatch = s.idLatch.map fun d => { d with dcnt := 1 } := by
    rw [e4, e3, ← back.idLatch]; rfl
  have hex4 : s4.exLatch = s.exLatch.map fun e => { e with ecnt := 1 } := by
    rw [e4, e3, ← back.exLatch]; rfl
  have hmem4 : s4.memLatch = none := by rw [e4, e3]; exact back.memLatch
  have hsup4 : s4.fsup = s.fsup := by rw [e4, e3]; exact back.fsup
  have hcy4 : s4.cycle = s.cycle + 1 := by rw [e4, e3]; exact back.cycle
  have hic4 : s4.icount = s.icount := by rw [e4, e3]; exact back.icount
  obtain ⟨-, -, hexT, hmemT, -⟩ := frontStages_frame s4
  by_cases hf : s.fsup = 0
  · by_cases hlt : s.pc.toNat < s.icount.val
    · have hstay : s.cycle = 0 ∨ s.idLatch ≠ none := by
        rcases hfill with hc | hf1 | hd | hend
        · exact .inl hc
        · simp [hf] at hf1
        · exact .inr hd
        · omega
      have front := frontStages_of_fetch_stay (hsup4.trans hf) hif4 (by rwa [hpc4, hic4])
        (hstay.imp (fun h0 => by omega) fun hd => by simpa [hid4] using hd)
      rw [hpc4, hid4] at front
      exact ⟨hexT.trans hex4, front.idLatch, hmemT.trans hmem4, front.fsup,
        .inr ⟨front.pc, ⟨_, front.ifLatch⟩, hlt, hstay⟩⟩
    · have hend := Nat.le_of_not_lt hlt
      have front := frontStages_of_ended (hsup4.trans hf) hif4 (by rwa [hpc4, hic4])
      rw [hpc4, hid4] at front
      exact ⟨hexT.trans hex4, front.idLatch, hmemT.trans hmem4, front.fsup,
        .inl ⟨front.pc, front.ifLatch, .inr hend⟩⟩
  · have hf1 : s.fsup = 1 := hsup.elim (fun h0 => absurd h0 hf) fun h1 => h1.1
    have front := frontStages_of_suppressed (by rwa [hsup4]) hif4
    rw [hpc4, hid4, hsup4, hf1] at front
    exact ⟨hexT.trans hex4, front.idLatch, hmemT.trans hmem4, front.fsup,
      .inl ⟨front.pc, front.ifLatch, .inl hf⟩⟩

/-! ### The cycle after an odd number of cycles -/

/-- The cycle with no branch taken: the word of ID enters EX, and IF, or a fetch, fills ID. -/
structure StraightCycle (s t : State) : Prop where
  exLatch_of_none : s.idLatch = none → t.exLatch = none
  exLatch_of_some : ∀ d, s.idLatch = some d → ∃ ins, t.exLatch = some ⟨d.word, d.ia, ins, 2⟩
  fsup : t.fsup = 0
  front : (∃ f, s.ifLatch = some f ∧ t.pc = s.pc ∧ t.idLatch = some ⟨f.word, f.ia, 2⟩) ∨
    (s.ifLatch = none ∧ s.pc.toNat < s.icount.val ∧ t.pc = s.pc + 1 ∧ ∃ w, t.idLatch = some ⟨w, s.pc, 2⟩) ∨
    (s.ifLatch = none ∧ s.icount.val ≤ s.pc.toNat ∧ t.pc = s.pc ∧ t.idLatch = none)

/-- The instruction of EX completes, IF is empty at the end, and either a branch is taken and leaves ID and EX empty, or
the younger instructions move on. -/
structure OddCycle (s t : State) : Prop where
  memLatch_of_none : s.exLatch = none → t.memLatch = none
  memLatch_of_some : ∀ e, s.exLatch = some e → ∃ v, t.memLatch = some ⟨e.word, e.ia, e.ins, v⟩
  ifLatch : t.ifLatch = none
  younger : (t.idLatch = none ∧ t.exLatch = none ∧ t.fsup = 1) ∨ StraightCycle s t

/-- Execute completes an instruction that has one cycle left, and a taken branch empties IF and ID. -/
theorem executeStage_of_last (hs : ∀ e ∈ s.exLatch, e.ecnt = 1) (h : executeStage s = .next t) :
    t.exLatch = none ∧ (s.exLatch = none → t.memLatch = s.memLatch) ∧
      (∀ e, s.exLatch = some e → ∃ v, t.memLatch = some ⟨e.word, e.ia, e.ins, v⟩) ∧
      ((t.pc = s.pc ∧ t.ifLatch = s.ifLatch ∧ t.idLatch = s.idLatch ∧ t.fsup = s.fsup) ∨
        (t.ifLatch = none ∧ t.idLatch = none ∧ t.fsup = 2)) := by
  rcases executeStage_cases h with ⟨he, rfl⟩ | ⟨e, he, hz, -⟩ | ⟨e, v, he, -, -, rfl⟩ | ⟨e, a, he, -, -, -, rfl⟩
  · exact ⟨he, fun _ => rfl, by simp [he], .inl ⟨rfl, rfl, rfl, rfl⟩⟩
  · rw [hs e he] at hz
    exact absurd rfl hz
  · exact ⟨rfl, by simp [he], by simp [he], .inl ⟨rfl, rfl, rfl, rfl⟩⟩
  · exact ⟨rfl, by simp [he], by simp [he], .inr ⟨rfl, rfl, rfl⟩⟩

/-- Decode hands a word that has one cycle left to an empty EX. -/
theorem decodeStage_of_last (hs : ∀ d ∈ s.idLatch, d.dcnt = 1) (hex : s.exLatch = none)
    (h : decodeStage s = .next t) :
    t.idLatch = none ∧ (s.idLatch = none → t.exLatch = none) ∧
      ∀ d, s.idLatch = some d → ∃ ins, t.exLatch = some ⟨d.word, d.ia, ins, 2⟩ := by
  rcases decodeStage_next h with ⟨hd, rfl⟩ | ⟨d, hd, ⟨-, -, ins, -, rfl⟩ | ⟨hz, -⟩⟩
  · exact ⟨hd, fun _ => hex, by simp [hd]⟩
  · refine ⟨rfl, by simp [hd], fun d' hd' => ?_⟩
    obtain rfl := Option.some.inj (hd.symm.trans hd')
    exact ⟨ins, rfl⟩
  · exact absurd ⟨by rw [hs d hd]; rfl, hex⟩ hz

/-- With one cycle left in each, Execute empties EX before Decode looks at it, so Decode never waits. -/
theorem oddCycle_of_runCycle (hodd : s.cycle % 2 = 1) (hs : s.OddOk) (h : runCycle s = .next t) : OddCycle s t := by
  obtain ⟨-, hid, hex, hsup, -⟩ := hs
  obtain ⟨s2, s3, s4, back, h3, h4, rfl⟩ := runCycle_next h
  have mid3 := executeStage_frame h3
  obtain ⟨mid4, hpc4, hif4, hmem4, hsup4⟩ := decodeStage_frame h4
  obtain ⟨hex3, hmem_none, hmem_some, hfront3⟩ := executeStage_of_last (by rwa [back.exLatch]) h3
  have hid3 : ∀ d ∈ s3.idLatch, d.dcnt = 1 := by
    rcases hfront3 with ⟨-, -, hd, -⟩ | ⟨-, hd, -⟩
    · rwa [hd, back.idLatch]
    · simp [hd]
  obtain ⟨hid4, hex_none, hex_some⟩ := decodeStage_of_last hid3 hex3 h4
  have hcycle : 1 < s4.cycle := by rw [mid4.cycle, mid3.cycle, back.cycle]; omega
  have hic : s4.icount = s.icount := by rw [mid4.icount, mid3.icount, back.icount]
  obtain ⟨-, -, hexT, hmemT, -⟩ := frontStages_frame s4
  rw [hmem4] at hmemT
  have older (hif : (drainCheck (transferStage (fetchStage s4))).ifLatch = none) younger : OddCycle s _ :=
    { memLatch_of_none := fun he => by rw [hmemT, hmem_none (back.exLatch.trans he), back.memLatch]
      memLatch_of_some := fun e he => by rw [hmemT]; exact hmem_some e (back.exLatch.trans he)
      ifLatch := hif
      younger := younger }
  rcases hfront3 with ⟨hpc3, hif3, hd3, hf3⟩ | ⟨hif3, hd3, hf3⟩
  · rw [hd3, back.idLatch, ← hexT] at hex_none hex_some
    have hpc : s4.pc = s.pc := by rw [hpc4, hpc3, back.pc]
    have hif : s4.ifLatch = s.ifLatch := by rw [hif4, hif3, back.ifLatch]
    have hf : s4.fsup = 0 := by rw [hsup4, hf3, back.fsup, hsup]
    cases hcase : s.ifLatch with
    | some f =>
      have front := frontStages_of_waiting hf (hif.trans hcase) hcycle hid4
      rw [hpc] at front
      exact older front.ifLatch
        (.inr ⟨hex_none, hex_some, front.fsup, .inl ⟨f, hcase, front.pc, front.idLatch⟩⟩)
    | none =>
      by_cases hlt : s.pc.toNat < s.icount.val
      · have front := frontStages_of_fetch_move hf (hif.trans hcase) (by rwa [hpc, hic]) hcycle hid4
        rw [hpc] at front
        exact older front.ifLatch
          (.inr ⟨hex_none, hex_some, front.fsup, .inr (.inl ⟨hcase, hlt, front.pc, _, front.idLatch⟩)⟩)
      · have hend := Nat.le_of_not_lt hlt
        have front := frontStages_of_ended hf (hif.trans hcase) (by rwa [hpc, hic])
        rw [hpc, hid4] at front
        exact older front.ifLatch
          (.inr ⟨hex_none, hex_some, front.fsup, .inr (.inr ⟨hcase, hend, front.pc, front.idLatch⟩)⟩)
  · have hf : s4.fsup = 2 := hsup4.trans hf3
    have front := frontStages_of_suppressed (by rw [hf]; decide) (hif4.trans hif3)
    rw [hid4, hf] at front
    exact older front.ifLatch (.inl ⟨front.idLatch, hexT.trans (hex_none hd3), front.fsup⟩)

/-! ### Timing and program order are kept (R141 to R143) -/

/-- The rhythm from an even count to an odd one. -/
theorem EvenCycle.oddOk (cyc : EvenCycle s t) (hcy : t.cycle = s.cycle + 1) : t.OddOk := by
  refine ⟨cyc.memLatch, by simp [cyc.idLatch], by simp [cyc.exLatch], cyc.fsup, fun hif => ?_⟩
  rcases cyc.front with ⟨-, hnone, -⟩ | ⟨-, -, -, h0 | hd⟩
  · exact absurd hnone hif
  · exact .inr (by omega)
  · exact .inl (by simpa [cyc.idLatch] using hd)

/-- The rhythm from an odd count to an even one: ID stays empty only after a branch or at the end of the program. -/
theorem OddCycle.evenOk (cyc : OddCycle s t) (hmem : s.memLatch = none) (effect : CycleEffect s t) : t.EvenOk := by
  refine ⟨cyc.ifLatch, effect.wbLatch_of_none hmem, ?_⟩
  rcases cyc.younger with ⟨hid, hex, hf⟩ | straight
  · exact ⟨by simp [hid], by simp [hex], .inr ⟨hf, hid, hex⟩, .inr (.inl hf)⟩
  · have hex : ∀ e ∈ t.exLatch, e.ecnt = 2 := by
      cases hd : s.idLatch with
      | none => simp [straight.exLatch_of_none hd]
      | some d =>
        obtain ⟨ins, he⟩ := straight.exLatch_of_some d hd
        simp [he]
    rcases straight.front with ⟨f, -, -, hid⟩ | ⟨-, -, -, w, hid⟩ | ⟨-, hend, hpc, hid⟩
    · exact ⟨by simp [hid], hex, .inl straight.fsup, .inr (.inr (.inl (by simp [hid])))⟩
    · exact ⟨by simp [hid], hex, .inl straight.fsup, .inr (.inr (.inl (by simp [hid])))⟩
    · exact ⟨by simp [hid], hex, .inl straight.fsup,
        .inr (.inr (.inr (by rwa [hpc, effect.icount])))⟩

/-- The instruction in WB after a cycle is the one that was in MEM (R106). -/
theorem CycleEffect.wbLatch_ia (effect : CycleEffect s t) {b : WbLatch} (hb : b ∈ t.wbLatch) :
    ∃ m, s.memLatch = some m ∧ b.ia = m.ia := by
  cases hm : s.memLatch with
  | none => simp [effect.wbLatch_of_none hm] at hb
  | some m =>
    obtain ⟨mdr, -, hwb⟩ := effect.wbLatch_of_some m hm
    rw [hwb] at hb
    cases hb
    exact ⟨m, rfl, rfl⟩

/-- From an even count every occupant of ID and EX stays, MEM moves to WB, and IF takes the address at the PC. -/
theorem EvenCycle.orderOk (cyc : EvenCycle s t) (effect : CycleEffect s t) (hs : s.EvenOk) (ho : s.OrderOk) :
    t.OrderOk := by
  obtain ⟨hif, -, -, -, hsup, -⟩ := hs
  obtain ⟨hex, hid, -, hexlt, hidlt, -⟩ := ho
  have ofEx {e : ExLatch} (he : e ∈ t.exLatch) : ∃ e0, s.exLatch = some e0 ∧ e.ia = e0.ia := by
    rw [cyc.exLatch] at he
    obtain ⟨e0, he0, rfl⟩ := Option.map_eq_some_iff.1 he
    exact ⟨e0, he0, rfl⟩
  have ofId {d : IdLatch} (hd : d ∈ t.idLatch) : ∃ d0, s.idLatch = some d0 ∧ d.ia = d0.ia := by
    rw [cyc.idLatch] at hd
    obtain ⟨d0, hd0, rfl⟩ := Option.map_eq_some_iff.1 hd
    exact ⟨d0, hd0, rfl⟩
  refine ⟨fun e he => ?_, fun d hd => ?_, fun f hf => ?_, fun e he => ?_, fun d hd => ?_, fun f hf => ?_⟩
  · obtain ⟨e0, he0, hia⟩ := ofEx he
    obtain ⟨hnext, hmem, -, hend⟩ := hex e0 he0
    refine ⟨fun d hd => ?_, by simp [cyc.memLatch], fun b hb => ?_, fun hnone => ?_⟩
    · obtain ⟨d0, hd0, hd⟩ := ofId hd
      rw [hd, hia]
      exact hnext d0 hd0
    · obtain ⟨m, hm, hb⟩ := effect.wbLatch_ia hb
      rw [hb, hia]
      exact hmem m hm
    · obtain ⟨-, hpc, hle⟩ := hend (by simpa [cyc.idLatch] using hnone)
      rcases cyc.front with ⟨htpc, htif, -⟩ | ⟨-, -, hlt, -⟩
      · exact ⟨htif, by rw [htpc, hpc, hia], by rwa [htpc, effect.icount]⟩
      · omega
  · obtain ⟨d0, hd0, hia⟩ := ofId hd
    obtain ⟨-, hpc, -⟩ := hid d0 hd0
    rcases cyc.front with ⟨htpc, htif, hstop⟩ | ⟨htpc, ⟨w, htif⟩, -⟩
    · refine ⟨by simp [htif], fun _ => by rw [htpc, hpc hif, hia], fun _ _ => ?_⟩
      rw [htpc, effect.icount]
      rcases hstop with hne | hle
      · rcases hsup with h0 | ⟨-, hnone, -⟩
        · exact absurd h0 hne
        · simp [hd0] at hnone
      · exact hle
    · refine ⟨?_, by simp [htif], by simp [htif]⟩
      rw [htif]
      rintro _ ⟨⟩
      rw [hia]
      exact hpc hif
  · rcases cyc.front with ⟨-, htif, -⟩ | ⟨htpc, ⟨w, htif⟩, -⟩
    · simp [htif] at hf
    · rw [htif] at hf
      cases hf
      exact htpc
  · obtain ⟨e0, he0, hia⟩ := ofEx he
    rw [hia, effect.icount]
    exact hexlt e0 he0
  · obtain ⟨d0, hd0, hia⟩ := ofId hd
    rw [hia, effect.icount]
    exact hidlt d0 hd0
  · rcases cyc.front with ⟨-, htif, -⟩ | ⟨-, ⟨w, htif⟩, hlt, -⟩
    · simp [htif] at hf
    · rw [htif] at hf
      cases hf
      rwa [effect.icount]

/-- Where only MEM and WB are occupied program order asks nothing. -/
theorem State.orderOk_of_empty (hif : s.ifLatch = none) (hid : s.idLatch = none) (hex : s.exLatch = none) :
    s.OrderOk := by
  simp [State.OrderOk, hif, hid, hex]

/-- Straight on, the address that enters ID is the one after that of the word leaving it. -/
theorem StraightCycle.idLatch_ia (straight : StraightCycle s t) (ho : s.OrderOk) {d : IdLatch} (hd : d ∈ t.idLatch) :
    t.pc = d.ia + 1 ∧ d.ia.toNat < s.icount.val ∧ ∀ d0 ∈ s.idLatch, d.ia = d0.ia + 1 := by
  obtain ⟨-, hid, hif, -, -, hiflt⟩ := ho
  rcases straight.front with ⟨f, hf, htpc, htid⟩ | ⟨hnone, hlt, htpc, w, htid⟩ | ⟨-, -, -, htid⟩ <;> rw [htid] at hd
  · cases hd
    exact ⟨htpc.trans (hif f hf), hiflt f hf, fun d0 hd0 => (hid d0 hd0).1 f hf⟩
  · cases hd
    exact ⟨htpc, hlt, fun d0 hd0 => (hid d0 hd0).2.1 hnone⟩
  · cases hd

/-- From an odd count every occupant moves on one stage, or a taken branch leaves no younger one. -/
theorem OddCycle.orderOk (cyc : OddCycle s t) (effect : CycleEffect s t) (hodd : s.cycle % 2 = 1) (hs : s.OddOk)
    (ho : s.OrderOk) : t.OrderOk := by
  rcases cyc.younger with ⟨hid, hex, -⟩ | straight
  · exact State.orderOk_of_empty cyc.ifLatch hid hex
  have newId {d : IdLatch} (hd : d ∈ t.idLatch) := straight.idLatch_ia ho hd
  obtain ⟨hmem, -⟩ := hs
  obtain ⟨hex, hid, -, -, hidlt, -⟩ := ho
  have ofEx {e : ExLatch} (he : e ∈ t.exLatch) : ∃ d, s.idLatch = some d ∧ e.ia = d.ia := by
    cases hd : s.idLatch with
    | none => simp [straight.exLatch_of_none hd] at he
    | some d =>
      obtain ⟨ins, hex⟩ := straight.exLatch_of_some d hd
      rw [hex] at he
      cases he
      exact ⟨d, rfl, rfl⟩
  refine ⟨fun e he => ?_, fun d hd => ?_, by simp [cyc.ifLatch], fun e he => ?_, fun d hd => ?_, by simp [cyc.ifLatch]⟩
  · obtain ⟨d0, hd0, hia⟩ := ofEx he
    refine ⟨fun d hd => ?_, fun m hm => ?_, by simp [effect.wbLatch_of_none hmem], fun hnone => ?_⟩
    · obtain ⟨-, -, hnext⟩ := newId hd
      rw [hia]
      exact hnext d0 hd0
    · cases he0 : s.exLatch with
      | none => simp [cyc.memLatch_of_none he0] at hm
      | some e0 =>
        obtain ⟨v, hmT⟩ := cyc.memLatch_of_some e0 he0
        rw [hmT] at hm
        cases hm
        rw [hia]
        exact (hex e0 he0).1 d0 hd0
    · rcases straight.front with ⟨f, -, -, htid⟩ | ⟨-, -, -, w, htid⟩ | ⟨hifs, hend, htpc, -⟩
      · simp [htid] at hnone
      · simp [htid] at hnone
      · exact ⟨cyc.ifLatch, by rw [htpc, hia]; exact (hid d0 hd0).2.1 hifs, by rwa [htpc, effect.icount]⟩
  · obtain ⟨hpc, -, -⟩ := newId hd
    exact ⟨by simp [cyc.ifLatch], fun _ => hpc, fun _ hc => by have := effect.cycle; omega⟩
  · obtain ⟨d0, hd0, hia⟩ := ofEx he
    rw [hia, effect.icount]
    exact hidlt d0 hd0
  · obtain ⟨-, hlt, -⟩ := newId hd
    rwa [effect.icount]

/-! ### The step -/

/-- Only the drain check halts, and no cycle that is not cut short by a fault ends faulted. -/
theorem CycleEffect.statusOk (effect : CycleEffect s t) (hrun : s.status = .running) : t.StatusOk := by
  refine ⟨fun hhalt => ?_, fun c hc => ?_⟩
  · rcases effect.status with ⟨hst, -⟩ | ⟨-, hdrained⟩
    · rw [hst, hrun] at hhalt
      cases hhalt
    · exact hdrained
  · rw [effect.notFaulted hrun] at hc
    cases hc

/-- Timing and program order after one cycle: an even count goes to an odd one, and back. -/
theorem runCycle_timing_order (h : runCycle s = .next t) (ht : s.TimingOk) (ho : s.OrderOk) :
    t.TimingOk ∧ t.OrderOk := by
  have effect := cycleEffect_of_runCycle h
  rcases Nat.mod_two_eq_zero_or_one s.cycle with hpar | hpar
  · have heven : s.EvenOk := by rwa [State.TimingOk, if_pos hpar] at ht
    have cyc := evenCycle_of_runCycle heven h
    have hparT : t.cycle % 2 ≠ 0 := by rw [effect.cycle]; omega
    refine ⟨?_, cyc.orderOk effect heven ho⟩
    rw [State.TimingOk, if_neg hparT]
    exact cyc.oddOk effect.cycle
  · have hodd : s.OddOk := by rwa [State.TimingOk, if_neg (by omega)] at ht
    have cyc := oddCycle_of_runCycle hpar hodd h
    have hparT : t.cycle % 2 = 0 := by rw [effect.cycle]; omega
    refine ⟨?_, cyc.orderOk effect hpar hodd ho⟩
    rw [State.TimingOk, if_pos hparT]
    exact cyc.evenOk hodd.1 effect

/-- Every step keeps the invariant: by `State.Inv.enterFault` where its cycle faults, and part by part where it does
not. -/
theorem State.Inv.of_step (hs : s.Inv) (h : step s = .next t) : t.Inv := by
  obtain ⟨hrun, hcycle | ⟨r, hfault, rfl⟩⟩ := step_eq_next.1 h
  · obtain ⟨harch, hlatch, htiming, horder, -⟩ := hs
    obtain ⟨htimingT, horderT⟩ := runCycle_timing_order hcycle htiming horder
    exact ⟨runCycle_archOk hcycle harch, runCycle_latchOk hcycle hlatch, htimingT, horderT,
      (cycleEffect_of_runCycle hcycle).statusOk hrun⟩
  · obtain ⟨q, hq, hcy⟩ := runCycle_fault hfault
    cases hq
    exact hs.enterFault hcy

end Sys2Proof.Machine

/-! ## The statements of the state (10_state.md) -/

section
open Sys2Proof Sys2Proof.Machine

/-- Settles O43, by the two kinds of cycle the invariant allows (`EvenCycle`, `OddCycle`) and the faulted state. -/
theorem stepKeepsThePipelineInvariant : Obligations.StepKeepsThePipelineInvariant :=
  fun _ _ hs h => hs.of_step h

/-- Settles O18: a cycle settles the register file, which leaves register 0 alone, and a faulting one commits nothing. -/
theorem registerZeroReadsZero : Obligations.RegisterZeroReadsZero := by
  refine ⟨fun s => rfl, fun s i hi => if_neg hi, fun s t h0 h => ?_⟩
  rcases (step_eq_next.1 h).2 with hcycle | ⟨r, -, rfl⟩
  · rw [(cycleEffect_of_runCycle hcycle).regs, s.settledRegs_get_zero, h0]
  · exact h0

/-- Settles O19: a cycle that does not fault leaves the settled register file, whose one write is the pending one of
WB. -/
theorem registersChangeOnlyInWriteBack : Obligations.RegistersChangeOnlyInWriteBack := by
  refine ⟨fun s v => rfl, fun s i j v hi => s.readReg_writeReg hi j v, fun s t h => ?_⟩
  rcases (step_eq_next.1 h).2 with hcycle | ⟨r, -, rfl⟩
  · rw [(cycleEffect_of_runCycle hcycle).regs]
    exact s.settledRegs_cases
  · exact .inl rfl

/-- Settles O23: the PC of the cycle (`runCycle_pc`), with the branch of EX read off its record. -/
theorem pcMovesOnlyByFetchOrBranch : Obligations.PcMovesOnlyByFetchOrBranch := by
  intro s t h
  rcases (step_eq_next.1 h).2 with hcycle | ⟨r, -, rfl⟩
  · rcases runCycle_pc hcycle with hpc | hfetch | ⟨e, s2, he, hz, back, hbranch, hb⟩
    · exact .inl hpc
    · exact .inr (.inl hfetch)
    · refine .inr (.inr ⟨e, he, hz, inBounds_iff.1 hb, ?_⟩)
      rcases hbranch with ⟨r1, r2, imm, hi, -, ht⟩ | ⟨target, hi, ht⟩
      · exact .inl ⟨r1, r2, imm, hi, ht⟩
      · exact .inr ⟨target, hi, by rw [ht, back.pc, jmpTarget]⟩
  · exact .inl rfl

/-- Settles O24: a cycle that does not fault begins one cycle, and the faulted state is the one at its start. -/
theorem cycleCountAdvancesAndIcountStays : Obligations.CycleCountAdvancesAndIcountStays := by
  intro s t h
  obtain ⟨hrun, hcycle | ⟨r, -, rfl⟩⟩ := step_eq_next.1 h
  · have effect := cycleEffect_of_runCycle hcycle
    exact ⟨effect.icount, fun _ => effect.cycle, fun hf => absurd (effect.notFaulted hrun) hf⟩
  · exact ⟨rfl, nofun, fun _ => rfl⟩

/-- Settles O52: the image is written to a memory that reads 0 everywhere, and nothing else of reset changes. -/
theorem loadedStateIsAsReset : Obligations.LoadedStateIsAsReset := by
  intro image hlen
  have hread : ∀ k, (Memory.writeFrom 0 image []).read k = (image[k]?).getD 0 := fun k => by
    simpa [Memory.read] using Memory.read_writeFrom image (k := 0) Memory.wf_nil (by simpa using hlen) k
  refine ⟨_, State.loadImage_eq_ok.2 ⟨hlen, rfl⟩, State.reset_readReg, rfl, fun k w hw => ?_, fun k hk => ?_,
    rfl, rfl, rfl, rfl, rfl, rfl, rfl, rfl, rfl⟩
  · simp [hread, hw]
  · simp [hread, List.getElem?_eq_none hk]

/-- Settles O36: by the inversion of the step, whose first part is that the state is running. -/
theorem onlyRunningStatesHaveANextCycle : Obligations.OnlyRunningStatesHaveANextCycle :=
  fun _ hstatus _ h => hstatus (step_eq_next.1 h).1

/-- Settles O41: at reset the latches are empty and the registers, the memory, the PC and the counters are 0. -/
theorem resetSatisfiesTheInvariant : Obligations.ResetSatisfiesTheInvariant :=
  ⟨⟨rfl, Memory.wf_nil, Nat.zero_le _⟩, ⟨nofun, nofun, nofun⟩,
    ⟨rfl, rfl, nofun, nofun, .inl rfl, .inl rfl⟩, ⟨nofun, nofun, nofun, nofun, nofun, nofun⟩, nofun, nofun⟩

end

/-! ## Bounds, and the words a cycle brings into IF and ID (20_memory.md) -/

namespace Sys2Proof.Machine

variable {s t : State}

/-! ### Bounds (R52) -/

theorem inBounds_eq_false_iff {a : Word} : inBounds a = false ↔ 2048 ≤ a.toNat := by simp [inBounds]

/-! ### Where the words in IF and ID come from (R119, R121, R123, R125) -/

/-- Execute leaves the PC, IF, ID and the suppression counter as they are, or a taken branch empties IF and ID and
suppresses the fetch of the same cycle (R115, R116). -/
theorem executeStage_front (h : executeStage s = .next t) :
    t.FrontIs s.pc s.ifLatch s.idLatch s.fsup ∨ ∃ a, t.FrontIs a none none Config.fetchSuppress := by
  rcases executeStage_cases h with ⟨-, rfl⟩ | ⟨e, -, -, rfl⟩ | ⟨e, v, -, -, -, rfl⟩ | ⟨e, a, -, -, -, -, rfl⟩
  · exact .inl ⟨rfl, rfl, rfl, rfl⟩
  · exact .inl ⟨rfl, rfl, rfl, rfl⟩
  · exact .inl ⟨rfl, rfl, rfl, rfl⟩
  · exact .inr ⟨a, rfl, rfl, rfl, rfl⟩

/-- The word in ID after Decode is the one before it: Decode changes its counter alone (R118, R119). -/
theorem decodeStage_idLatch_held (h : decodeStage s = .next t) {d : IdLatch} (hd : t.idLatch = some d) :
    ∃ d', s.idLatch = some d' ∧ d.word = d'.word ∧ d.ia = d'.ia := by
  rcases decodeStage_next h with ⟨-, rfl⟩ | ⟨d', hd', ⟨-, -, ins, -, rfl⟩ | ⟨-, rfl⟩⟩
  · exact ⟨d, hd, rfl, rfl⟩
  · cases hd
  · cases hd
    exact ⟨d', hd', rfl, rfl⟩

@[simp] theorem fetchStage_idLatch (s : State) : (fetchStage s).idLatch = s.idLatch := by
  rcases fetchStage_cases s with ⟨-, h⟩ | ⟨-, -, -, h⟩ | ⟨-, -, h⟩ <;> rw [h]
  exact s.fetchWord_idLatch

/-- The word in IF after Fetch was there before, or is the word at the PC (R121, R123). -/
theorem fetchStage_ifLatch_source {f : IfLatch} (hf : (fetchStage s).ifLatch = some f) :
    s.ifLatch = some f ∨ f = ⟨s.memory.read s.pc.toNat, s.pc⟩ := by
  rcases fetchStage_cases s with ⟨-, h⟩ | ⟨-, -, -, h⟩ | ⟨-, -, h⟩ <;> rw [h] at hf
  · exact .inl hf
  · exact .inr (Option.some.inj hf).symm
  · exact .inl hf

/-- The transfer puts no word into IF (R125). -/
theorem transferStage_ifLatch_held {f : IfLatch} (hf : (transferStage s).ifLatch = some f) :
    s.ifLatch = some f := by
  rcases transferStage_cases s with ⟨g, -, -, -, h⟩ | ⟨-, h⟩ <;> rw [h] at hf
  · cases hf
  · exact hf

/-- The word in ID after the transfer was there before, or was in IF (R125). -/
theorem transferStage_idLatch_source {d : IdLatch} (hd : (transferStage s).idLatch = some d) :
    s.idLatch = some d ∨ ∃ f, s.ifLatch = some f ∧ d.word = f.word ∧ d.ia = f.ia := by
  rcases transferStage_cases s with ⟨f, hf, -, -, h⟩ | ⟨-, h⟩ <;> rw [h] at hd
  · cases hd
    exact .inr ⟨f, hf, rfl, rfl⟩
  · exact .inl hd

/-- The word in IF is one `s` held there, or the word that the memory of `t` has at the PC of `s`. -/
def State.HeldOrFetched (s t : State) (f : IfLatch) : Prop :=
  s.ifLatch = some f ∨ f.ia = s.pc ∧ f.word = t.memory.read f.ia.toNat

/-- In a cycle that does not fault the Fetch stage sees the memory the cycle ends with: only the Memory stage writes
it, and it acts before (R53, R100). So IF then holds a word carried over or one read from that memory, and ID, which
is not re-read, only a word carried over. -/
theorem runCycle_words (h : runCycle s = .next t) :
    ∃ s4, t = drainCheck (transferStage (fetchStage s4)) ∧
      (∀ f, (fetchStage s4).ifLatch = some f → s.HeldOrFetched t f) ∧
      ∀ d, s4.idLatch = some d → ∃ d', s.idLatch = some d' ∧ d.word = d'.word ∧ d.ia = d'.ia := by
  obtain ⟨s2, s3, s4, back, h3, h4, ht⟩ := runCycle_next h
  obtain ⟨-, hpc4, hif4, -, hsup4⟩ := decodeStage_frame h4
  have hmem : t.memory = s4.memory := by
    obtain ⟨-, hmem, -⟩ := frontStages_frame s4
    rw [ht, hmem]
  refine ⟨s4, ht, fun f hf => ?_, fun d hd => ?_⟩
  · rcases executeStage_front h3 with front | ⟨a, front⟩
    · rcases fetchStage_ifLatch_source hf with hheld | rfl
      · exact .inl (by rw [← hheld, hif4, front.ifLatch, back.ifLatch])
      · exact .inr ⟨by rw [hpc4, front.pc, back.pc], by rw [hmem]⟩
    · have hsup : s4.fsup ≠ 0 := by rw [hsup4, front.fsup]; decide
      rw [fetchStage_of_suppressed hsup] at hf
      simp [hif4, front.ifLatch] at hf
  · obtain ⟨d', hd', hword⟩ := decodeStage_idLatch_held h4 hd
    rcases executeStage_front h3 with front | ⟨a, front⟩
    · exact ⟨d', by rw [← hd', front.idLatch, back.idLatch], hword⟩
    · simp [front.idLatch] at hd'

end Sys2Proof.Machine

/-! ## The statements of the memory (20_memory.md) -/

section
open Sys2Proof Sys2Proof.Machine

/-- Settles O20: at 2048 or more both accesses answer none; below, `Memory.read_write` reads the memory back after the
write. -/
theorem memoryReadsTheLastWrite : Obligations.MemoryReadsTheLastWrite := by
  refine fun s a v => ⟨fun hge => ?_, fun hlt hwf => ?_⟩
  · have hout := inBounds_eq_false_iff.2 hge
    exact ⟨State.memRead_eq_none.2 hout, State.memWrite_eq_none.2 hout⟩
  · have hin := inBounds_iff.2 hlt
    exact ⟨State.memRead_eq_some.2 ⟨hin, rfl⟩, s.memory.write a.toNat v, State.memWrite_eq_some.2 ⟨hin, rfl⟩,
      fun b => Memory.read_write hwf a.toNat b v⟩

/-- Settles O22: the words of IF and ID before the transfer (`runCycle_words`), and the transfer moves one from IF to
ID at most. -/
theorem fetchSeesTheStoreOfItsCycle : Obligations.FetchSeesTheStoreOfItsCycle := by
  intro s t h hok
  rcases (step_eq_next.1 h).2 with hcycle | ⟨r, -, rfl⟩
  · obtain ⟨s4, ht, hif, hid⟩ := runCycle_words hcycle
    refine ⟨fun f hf => ?_, fun d hd => ?_⟩
    · rw [ht, drainCheck_ifLatch] at hf
      exact hif f (transferStage_ifLatch_held hf)
    · rw [ht, drainCheck_idLatch] at hd
      rcases transferStage_idLatch_source hd with hheld | ⟨f, hf, hword, hia⟩
      · exact .inl (hid d (by rwa [fetchStage_idLatch] at hheld))
      · rcases hif f hf with hold | ⟨hpc, hread⟩
        · exact .inr (.inl ⟨f, hold, hword, hia⟩)
        · exact .inr (.inr ⟨hia.trans hpc, by rw [hword, hia, hread]⟩)
  · cases hok

end

/-! ## The codec: the fields of a word and the words of fields (30_encoding.md R71 to R80) -/

namespace Sys2Proof

/-! ### The fields of a word of five parts (R- and S-format) or of four (I-format) -/

section
variable (op : BitVec 4) (a b c : BitVec 5) (d : BitVec 13) (u : BitVec 18)

@[simp] theorem fieldOp_append5 : fieldOp (op ++ a ++ b ++ c ++ d) = op := by
  unfold fieldOp
  iterate 4 rw [BitVec.extractLsb'_append_eq_of_le (by decide)]
  exact BitVec.extractLsb'_eq_self

@[simp] theorem fieldR1_append5 : fieldR1 (op ++ a ++ b ++ c ++ d) = a.toFin := by
  unfold fieldR1
  iterate 3 rw [BitVec.extractLsb'_append_eq_of_le (by decide)]
  exact congrArg BitVec.toFin BitVec.extractLsb'_append_eq_right

@[simp] theorem fieldR2_append5 : fieldR2 (op ++ a ++ b ++ c ++ d) = b.toFin := by
  unfold fieldR2
  iterate 2 rw [BitVec.extractLsb'_append_eq_of_le (by decide)]
  exact congrArg BitVec.toFin BitVec.extractLsb'_append_eq_right

@[simp] theorem fieldR3_append5 : fieldR3 (op ++ a ++ b ++ c ++ d) = c.toFin := by
  unfold fieldR3
  rw [BitVec.extractLsb'_append_eq_of_le (by decide)]
  exact congrArg BitVec.toFin BitVec.extractLsb'_append_eq_right

@[simp] theorem fieldShamt_append5 : fieldShamt (op ++ a ++ b ++ c ++ d) = d :=
  BitVec.extractLsb'_append_eq_right

@[simp] theorem fieldOp_append4 : fieldOp (op ++ a ++ b ++ u) = op := by
  unfold fieldOp
  iterate 3 rw [BitVec.extractLsb'_append_eq_of_le (by decide)]
  exact BitVec.extractLsb'_eq_self

@[simp] theorem fieldR1_append4 : fieldR1 (op ++ a ++ b ++ u) = a.toFin := by
  unfold fieldR1
  iterate 2 rw [BitVec.extractLsb'_append_eq_of_le (by decide)]
  exact congrArg BitVec.toFin BitVec.extractLsb'_append_eq_right

@[simp] theorem fieldR2_append4 : fieldR2 (op ++ a ++ b ++ u) = b.toFin := by
  unfold fieldR2
  rw [BitVec.extractLsb'_append_eq_of_le (by decide)]
  exact congrArg BitVec.toFin BitVec.extractLsb'_append_eq_right

@[simp] theorem fieldImm_append4 : fieldImm (op ++ a ++ b ++ u) = u.signExtend 32 :=
  congrArg (BitVec.signExtend 32) BitVec.extractLsb'_append_eq_right

@[simp] theorem fieldOp_append2 (target : BitVec 28) : fieldOp (op ++ target) = op :=
  BitVec.extractLsb'_append_eq_left

@[simp] theorem fieldTarget_append2 (target : BitVec 28) : fieldTarget (op ++ target) = target :=
  BitVec.extractLsb'_append_eq_right

@[simp] theorem toFin_regField (r : RegIdx) : (regField r).toFin = r := rfl

/-! ### Clearing the undefined bits (R71) -/

/-- Clearing the undefined bits of an R-format word zeroes its last part. -/
theorem append5_and_definedR : (op ++ a ++ b ++ c ++ d : Word) &&& 0xFFFFE000 = op ++ a ++ b ++ c ++ 0#13 := by
  have hmask : (0xFFFFE000 : Word) =
      BitVec.allOnes 4 ++ BitVec.allOnes 5 ++ BitVec.allOnes 5 ++ BitVec.allOnes 5 ++ 0#13 := by decide
  rw [hmask]
  simp only [BitVec.and_append, BitVec.and_allOnes, BitVec.and_zero]

/-- Clearing the undefined bits of an S-format word zeroes its fourth part. -/
theorem append5_and_definedS : (op ++ a ++ b ++ c ++ d : Word) &&& 0xFFFC1FFF = op ++ a ++ b ++ 0#5 ++ d := by
  have hmask : (0xFFFC1FFF : Word) =
      BitVec.allOnes 4 ++ BitVec.allOnes 5 ++ BitVec.allOnes 5 ++ 0#5 ++ BitVec.allOnes 13 := by decide
  rw [hmask]
  simp only [BitVec.and_append, BitVec.and_allOnes, BitVec.and_zero]

end

/-! ### The immediate field (R73) -/

/-- Sign extension keeps the 18 bits of the field. -/
theorem setWidth_signExtend_imm (u : BitVec 18) : (u.signExtend 32).setWidth 18 = u := by
  ext i hi
  rw [BitVec.getElem_setWidth, BitVec.getLsbD_signExtend]
  simp [hi, show i < 32 by omega]

/-- The immediate that a word decodes to is in range. -/
theorem immInRange_fieldImm (w : Word) : immInRange (fieldImm w) = true := by
  simp [immInRange, fieldImm, setWidth_signExtend_imm]

/-- The range of the immediate is -131072 to 131071. -/
theorem immInRange_iff {imm : Word} : immInRange imm = true ↔ -131072 ≤ imm.toInt ∧ imm.toInt ≤ 131071 := by
  have hext : ((imm.setWidth 18).signExtend 32).toInt = imm.toInt.bmod (2 ^ 18) := by
    rw [BitVec.toInt_signExtend_of_le (by decide), BitVec.toInt_setWidth]
    rw [BitVec.toInt_eq_toNat_bmod, Int.bmod_bmod_of_dvd (by decide)]
  rw [immInRange, beq_iff_eq, ← BitVec.toInt_inj, hext, Int.bmod_def]
  split <;> omega

/-! ### Encoding the fields of a word (R76) -/

section
variable {w : Word} {op : BitVec 4} (hop : fieldOp w = op)
include hop

/-- A word is its five parts. -/
theorem eq_append5 :
    w = op ++ w.extractLsb' 23 5 ++ w.extractLsb' 18 5 ++ w.extractLsb' 13 5 ++ w.extractLsb' 0 13 := by
  subst hop
  unfold fieldOp
  iterate 4 rw [BitVec.extractLsb'_append_extractLsb'_eq_extractLsb' (by decide)]
  exact BitVec.extractLsb'_eq_self.symm

theorem encodeR_fields : encodeR op (fieldR1 w) (fieldR2 w) (fieldR3 w) = w &&& 0xFFFFE000 := by
  conv_rhs => rw [eq_append5 hop]
  exact (append5_and_definedR ..).symm

theorem encodeS_fields : encodeS op (fieldR1 w) (fieldR2 w) (fieldShamt w) = w &&& 0xFFFC1FFF := by
  conv_rhs => rw [eq_append5 hop]
  exact (append5_and_definedS ..).symm

theorem encodeI_fields : encodeI op (fieldR1 w) (fieldR2 w) (fieldImm w) = w := by
  subst hop
  unfold encodeI fieldImm fieldOp
  rw [setWidth_signExtend_imm]
  change w.extractLsb' 28 4 ++ w.extractLsb' 23 5 ++ w.extractLsb' 18 5 ++ w.extractLsb' 0 18 = w
  iterate 3 rw [BitVec.extractLsb'_append_extractLsb'_eq_extractLsb' (by decide)]
  exact BitVec.extractLsb'_eq_self

theorem encodeJ_fields : encodeJ op (fieldTarget w) = w := by
  subst hop
  exact (BitVec.extractLsb'_append_extractLsb'_eq_extractLsb' (by decide)).trans BitVec.extractLsb'_eq_self
end

/-! ### Decoding (R77 to R79) -/

variable {w : Word} {i : Instr}

/-- What a word decodes to has the opcode of the word, is legal, and is encoded by the defined bits of the word. -/
theorem decode_eq_ok (h : decode w = .ok i) :
    i.opcode = fieldOp w ∧ i.wellFormed = true ∧ encode i = w &&& Machine.definedBits i := by
  have hop : ∀ {k : Nat}, (fieldOp w).toNat = k → fieldOp w = BitVec.ofNat 4 k :=
    fun hk => by rw [← hk, BitVec.ofNat_toNat, BitVec.setWidth_eq]
  unfold decode at h
  split at h <;> cases h
  case h_1 | h_2 | h_3 | h_6 => exact ⟨(hop ‹_›).symm, rfl, encodeR_fields (hop ‹_›)⟩
  case h_9 | h_10 => exact ⟨(hop ‹_›).symm, rfl, encodeS_fields (hop ‹_›)⟩
  case h_8 => exact ⟨(hop ‹_›).symm, rfl, (encodeJ_fields (hop ‹_›)).trans BitVec.and_allOnes.symm⟩
  all_goals
    exact ⟨(hop ‹_›).symm, immInRange_fieldImm w, (encodeI_fields (hop ‹_›)).trans BitVec.and_allOnes.symm⟩

/-- A word with one of the opcodes 0 to 11 is an instruction. -/
theorem exists_decode_eq_ok (h : (fieldOp w).toNat ≤ 11) : ∃ i, decode w = .ok i := by
  unfold decode
  generalize (fieldOp w).toNat = k at h ⊢
  interval_cases k <;> exact ⟨_, rfl⟩

/-- A word with one of the opcodes 12 to 15 is no instruction (R79). -/
theorem decode_eq_error (h : 12 ≤ (fieldOp w).toNat) : decode w = .error (.invalidOpcode (fieldOp w)) := by
  unfold decode
  split
  case h_13 => rfl
  all_goals omega

/-! ### Encoding and decoding again (R81) -/

/-- The encoder puts the opcode number of an instruction in bits [31:28], whatever its fields (R76, R78). -/
theorem fieldOp_encode (i : Instr) : fieldOp (encode i) = i.opcode := by
  cases i
  case add | sub | mul | and => exact Laws.fieldOp_encodeR ..
  case lsl | lsr => exact Laws.fieldOp_encodeS ..
  case jmp => exact Laws.fieldOp_encodeJ ..
  all_goals exact Laws.fieldOp_encodeI ..

/-- An instruction is what its own word decodes to when its fields are in range (R81). -/
theorem decode_encode (h : i.wellFormed = true) : decode (encode i) = .ok i := by
  cases i
  case add | sub | mul | and => simp [decode, encode, encodeR]
  case lsl | lsr => simp [decode, encode, encodeS]
  case jmp => simp [decode, encode, encodeJ]
  all_goals
    have himm := (beq_iff_eq.1 h).symm
    simp [decode, encode, encodeI, himm]

/-- The bits that the format of an opcode defines (R71), a function of the opcode alone. -/
def opcodeBits (op : BitVec 4) : Word :=
  if op = 0 ∨ op = 1 ∨ op = 2 ∨ op = 5 then 0xFFFFE000 else if op = 8 ∨ op = 9 then 0xFFFC1FFF else 0xFFFFFFFF

theorem definedBits_eq_opcodeBits (i : Instr) : Machine.definedBits i = opcodeBits i.opcode := by
  cases i <;> rfl

theorem Instr.opcode_le (i : Instr) : i.opcode.toNat ≤ 11 := by
  cases i <;> exact Nat.le_of_ble_eq_true rfl

/-- Every format defines the opcode field. -/
theorem fieldOp_and_definedBits (w : Word) (i : Instr) : fieldOp (w &&& Machine.definedBits i) = fieldOp w := by
  have hones : ∀ op, (opcodeBits op).extractLsb' 28 4 = BitVec.allOnes 4 := by decide
  rw [definedBits_eq_opcodeBits, fieldOp, BitVec.extractLsb'_and, hones, BitVec.and_allOnes, fieldOp]

/-- The encoder sets no undefined bit, also where a field is out of range. -/
theorem encode_and_definedBits (i : Instr) : encode i &&& Machine.definedBits i = encode i := by
  cases i
  case add | sub | mul | and => exact append5_and_definedR ..
  case lsl | lsr => exact append5_and_definedS ..
  all_goals exact BitVec.and_allOnes

/-- A word decodes to a legal instruction exactly when its defined bits are the word of that instruction. -/
theorem decode_eq_ok_iff :
    decode w = .ok i ↔ i.wellFormed = true ∧ encode i = w &&& Machine.definedBits i := by
  refine ⟨fun h => (decode_eq_ok h).2, fun ⟨hwf, henc⟩ => ?_⟩
  have hop : fieldOp w = i.opcode := by rw [← fieldOp_encode, henc, fieldOp_and_definedBits]
  obtain ⟨j, hj⟩ := exists_decode_eq_ok (hop ▸ i.opcode_le)
  obtain ⟨hopj, hwfj, hencj⟩ := decode_eq_ok hj
  have hbits : Machine.definedBits j = Machine.definedBits i := by
    rw [definedBits_eq_opcodeBits, definedBits_eq_opcodeBits, hopj, hop]
  have hsame : encode j = encode i := by rw [hencj, henc, hbits]
  rw [hj, ← decode_encode hwfj, hsame, decode_encode hwf]

end Sys2Proof

/-! ## Encoded words as numbers (R76) -/

namespace Sys2Proof

/-- The parts of a word put together, as numbers: the upper one shifted by the width of the lower one. -/
theorem toNat_append_eq_add {m n : Nat} (x : BitVec m) (y : BitVec n) :
    (x ++ y).toNat = x.toNat * 2 ^ n + y.toNat := by
  rw [BitVec.toNat_append, ← Nat.shiftLeft_add_eq_or_of_lt y.isLt, Nat.shiftLeft_eq]

@[simp] theorem toNat_regField (r : RegIdx) : (regField r).toNat = r.val := rfl

section
variable (op : BitVec 4) (r1 r2 r3 : RegIdx)

theorem toNat_encodeR :
    (encodeR op r1 r2 r3).toNat = op.toNat * 2 ^ 28 + (r1.val * 2 ^ 23 + r2.val * 2 ^ 18 + r3.val * 2 ^ 13) := by
  simp only [encodeR, toNat_append_eq_add, toNat_regField, BitVec.toNat_ofNat]
  omega

theorem toNat_encodeS (shamt : BitVec 13) :
    (encodeS op r1 r2 shamt).toNat = op.toNat * 2 ^ 28 + (r1.val * 2 ^ 23 + r2.val * 2 ^ 18 + shamt.toNat) := by
  simp only [encodeS, toNat_append_eq_add, toNat_regField, BitVec.toNat_ofNat]
  omega

theorem toNat_encodeI (imm : Word) :
    (encodeI op r1 r2 imm).toNat =
      op.toNat * 2 ^ 28 + (r1.val * 2 ^ 23 + r2.val * 2 ^ 18 + imm.toNat % 2 ^ 18) := by
  simp only [encodeI, toNat_append_eq_add, toNat_regField, BitVec.toNat_setWidth]
  omega

theorem toNat_encodeJ (target : BitVec 28) : (encodeJ op target).toNat = op.toNat * 2 ^ 28 + target.toNat :=
  toNat_append_eq_add op target

end

end Sys2Proof

/-! ## The statements of the codec (30_encoding.md) -/

section
open Sys2Proof Sys2Proof.Machine

/-- Settles O1. The last clause turns on `encode_and_definedBits`: the opcode alone decides which bits are undefined,
so a record that encodes to the word would have the same ones, and they would be clear. -/
theorem decodeAndEncodeRoundTrip : Obligations.DecodeAndEncodeRoundTrip := by
  refine ⟨fun i hwf => decode_encode hwf, fun i hwf j hj => ?_, fun w i hi => (decode_eq_ok_iff.1 hi).2,
    fun w i hi hset j hj => hset ?_⟩
  · rw [decode_encode hwf] at hj
    cases hj
    rfl
  · have hop : i.opcode = j.opcode := by rw [(decode_eq_ok hi).1, ← hj, fieldOp_encode]
    have hbits : definedBits i = definedBits j := by
      rw [definedBits_eq_opcodeBits, definedBits_eq_opcodeBits, hop]
    rw [← hj, ← encode_and_definedBits j, hbits, BitVec.and_assoc, BitVec.and_not_self]
    exact BitVec.and_zero

/-- Settles O2: one sum for each of the four formats. -/
theorem encodedWordIsTheSumOfItsFields : Obligations.EncodedWordIsTheSumOfItsFields :=
  ⟨fun _ _ _ => ⟨toNat_encodeR .., toNat_encodeR .., toNat_encodeR .., toNat_encodeR ..⟩,
    fun _ _ _ => ⟨toNat_encodeS .., toNat_encodeS ..⟩,
    fun _ _ _ => ⟨toNat_encodeI .., toNat_encodeI .., toNat_encodeI .., toNat_encodeI .., toNat_encodeI ..⟩,
    fun _ => toNat_encodeJ ..⟩

/-- Settles O3: the opcode map has one row for each of 0 to 11, and what it gives is legal. -/
theorem decodeRejectsExactlyOpcodes12To15 : Obligations.DecodeRejectsExactlyOpcodes12To15 := by
  refine fun w => ⟨fun hle => ?_, decode_eq_error⟩
  obtain ⟨i, hi⟩ := exists_decode_eq_ok hle
  obtain ⟨hop, hwf, -⟩ := decode_eq_ok hi
  exact ⟨i, hi, hop, hwf⟩

/-- Settles O4: a word decodes by its defined bits alone (`decode_eq_ok_iff`), and the two words share them. -/
theorem decodeIgnoresUndefinedBits : Obligations.DecodeIgnoresUndefinedBits := by
  intro w u i h
  obtain ⟨hwf, henc⟩ := decode_eq_ok_iff.1 h
  refine decode_eq_ok_iff.2 ⟨hwf, ?_⟩
  rw [henc]
  ext k hk
  simp only [BitVec.getElem_and, BitVec.getElem_or, BitVec.getElem_not]
  cases w[k] <;> cases (definedBits i)[k] <;> simp

/-- Settles O5, by evaluating the encoder and the decoder on the words of the document. -/
theorem exampleWordsEncodeAndDecode : Obligations.ExampleWordsEncodeAndDecode :=
  ⟨⟨rfl, rfl⟩, ⟨rfl, rfl⟩, ⟨rfl, rfl⟩, ⟨rfl, rfl⟩, ⟨rfl, rfl⟩⟩

/-- Settles O31: Write-back and Memory leave EX alone (`BackEffect`), so the Execute stage of the step counts the
latch down to 0 and runs exec of its record. -/
theorem stepRunsTheDecodedInstruction : Obligations.StepRunsTheDecodedInstruction := by
  refine ⟨fun s s1 s2 e hrun he hcnt h1 h2 => ?_, fun s d i hd hcnt he hi => ?_⟩
  · have he2 : s2.exLatch = some e := by rw [(backEffect_of_stages h1 h2).exLatch, he]
    have hstage : executeStage s2 =
        exec e.ins { s2 with exLatch := some ⟨e.word, e.ia, e.ins, 0⟩, acting := .execute } := by
      have hzero : countDown e.ecnt = 0 := by rw [hcnt]; rfl
      simp only [executeStage, he2, if_pos hzero]
      rw [State.countExecute, hzero, State.actAt]
    simp only [step, hrun, runCycle, h1, h2, andThen_next, hstage]
  · have hzero : countDown d.dcnt = 0 := by rw [hcnt]; rfl
    simp only [decodeStage, hd, if_pos (And.intro hzero he), hi]
    rfl

end

/-! ## The front-end and the loader (30_encoding.md R95 to R99, R234) -/

namespace Sys2Proof.Machine

/-! ### The lines of a text (R95) -/

theorem splitAt_eq_splitOnP (sep : Char → Bool) (cs : List Char) : splitAt sep cs = cs.splitOnP sep := by
  induction cs with
  | nil => rfl
  | cons c cs ih =>
    rw [splitAt, List.splitOnP_cons_eq_if_modifyHead, ih]
    cases hsplit : cs.splitOnP sep with
    | nil => exact absurd hsplit (List.splitOnP_ne_nil sep cs)
    | cons l ls => rfl

/-- The lines of a text are its parts between the line feeds. -/
theorem sourceLines_eq_splitOn (source : List Char) : sourceLines source = source.splitOn '\n' := by
  rw [sourceLines, splitAt_eq_splitOnP, List.splitOn_eq_splitOnP]
  rfl

/-- No part between separators holds a separator. -/
theorem eq_false_of_mem_splitOnP {α : Type} {p : α → Bool} {xs l : List α} (hl : l ∈ xs.splitOnP p) {x : α}
    (hx : x ∈ l) : p x = false := by
  induction xs generalizing l with
  | nil => simp_all
  | cons y ys ih =>
    obtain ⟨m, ms, hsplit⟩ := List.exists_cons_of_ne_nil (List.splitOnP_ne_nil p ys)
    rw [hsplit] at ih
    rw [List.splitOnP_cons_eq_if_modifyHead, hsplit] at hl
    cases hy : p y with
    | true =>
      rw [hy, if_pos rfl] at hl
      rcases List.mem_cons.1 hl with rfl | hl
      · cases hx
      · exact ih hl hx
    | false =>
      rw [hy, if_neg Bool.false_ne_true] at hl
      rcases List.mem_cons.1 hl with rfl | hl
      · rcases List.mem_cons.1 hx with rfl | hx
        · exact hy
        · exact ih List.mem_cons_self hx
      · exact ih (List.mem_cons_of_mem _ hl) hx

theorem newline_notMem_of_mem_sourceLines {source l : List Char} (hl : l ∈ sourceLines source) : '\n' ∉ l := by
  rw [sourceLines_eq_splitOn, List.splitOn_eq_splitOnP] at hl
  intro hmem
  exact absurd (eq_false_of_mem_splitOnP hl hmem) (by decide)

/-! ### What the lines of a program give (R97 to R99) -/

/-- The instruction of an accepted line. -/
def LineResult.instr? : LineResult → Option Instr
  | .accepted i => some i
  | .blank => none
  | .unknownMnemonic => none
  | .badOperands => none

theorem LineResult.instr?_eq_some {r : LineResult} {i : Instr} : r.instr? = some i ↔ r = .accepted i := by
  cases r <;> simp [LineResult.instr?]

/-- The instructions of the accepted lines, in source order. -/
def acceptedInstrs (lines : List (List Char)) : List Instr :=
  lines.filterMap fun l => (parseTokens (lineTokens l)).instr?

/-- The numbers of the lines with an unknown mnemonic, the first line being number `n`. -/
def unknownLines (n : Nat) (lines : List (List Char)) : List Nat :=
  (lines.zipIdx n).filterMap fun p =>
    if parseTokens (lineTokens p.1) = .unknownMnemonic then some p.2 else none

theorem acceptedWords_eq_map_encode (lines : List (List Char)) :
    acceptedWords lines = (acceptedInstrs lines).map encode := by
  rw [acceptedWords, acceptedInstrs, List.map_filterMap]
  congr 1
  funext l
  cases parseTokens (lineTokens l) <;> rfl

theorem acceptedWords_cons (l : List Char) (ls : List (List Char)) :
    acceptedWords (l :: ls) = ((parseTokens (lineTokens l)).instr?.map encode).toList ++ acceptedWords ls := by
  simp only [acceptedWords_eq_map_encode, acceptedInstrs, List.filterMap_cons]
  cases (parseTokens (lineTokens l)).instr? <;> rfl

theorem unknownLines_cons (n : Nat) (l : List Char) (ls : List (List Char)) :
    unknownLines n (l :: ls) =
      (if parseTokens (lineTokens l) = .unknownMnemonic then [n] else []) ++ unknownLines (n + 1) ls := by
  simp only [unknownLines, List.zipIdx_cons, List.filterMap_cons]
  split <;> simp_all

theorem mem_unknownLines {n k : Nat} {lines : List (List Char)} :
    k ∈ unknownLines n lines ↔
      ∃ j l, lines[j]? = some l ∧ k = n + j ∧ parseTokens (lineTokens l) = .unknownMnemonic := by
  simp only [unknownLines, List.mem_filterMap, Prod.exists, List.mk_mem_zipIdx_iff_le_and_getElem?_sub,
    Option.ite_none_right_eq_some, Option.some.injEq]
  constructor
  · rintro ⟨l, i, ⟨hle, hl⟩, hp, rfl⟩
    exact ⟨i - n, l, hl, by omega, hp⟩
  · rintro ⟨j, l, hl, rfl, hp⟩
    exact ⟨l, n + j, ⟨by omega, by simpa using hl⟩, hp, rfl⟩

theorem except_map_eq_ok_iff {ε α β : Type} {f : α → β} {x : Except ε α} {b : β} :
    f <$> x = .ok b ↔ ∃ a, x = .ok a ∧ f a = b := by
  cases x <;> simp

/-- Lines give an image exactly when none of them refuses the program, and then it is the words of the accepted ones
and the numbers of those with an unknown mnemonic. -/
theorem assembleLines_eq_ok {n : Nat} {lines : List (List Char)} {a : Assembly} :
    assembleLines n lines = .ok a ↔
      (∀ l ∈ lines, ¬refusesProgram l) ∧ a = ⟨acceptedWords lines, unknownLines n lines⟩ := by
  induction lines generalizing n a with
  | nil => simp [assembleLines, acceptedWords, unknownLines, eq_comm]
  | cons l ls ih =>
    by_cases hlen : 128 < byteLength l
    · simp [assembleLines, refusesProgram, hlen]
    · have hrefuses : refusesProgram l ↔ parseTokens (lineTokens l) = .badOperands := or_iff_right hlen
      cases hp : parseTokens (lineTokens l) with
      | badOperands => simp [assembleLines, hlen, hp, hrefuses]
      | blank => simp [assembleLines, hlen, hp, hrefuses, acceptedWords_cons, unknownLines_cons, LineResult.instr?, ih]
      | unknownMnemonic =>
        simp [assembleLines, hlen, hp, hrefuses, acceptedWords_cons, unknownLines_cons, LineResult.instr?,
          except_map_eq_ok_iff, ih, eq_comm (a := a)]
      | accepted i =>
        simp [assembleLines, hlen, hp, hrefuses, acceptedWords_cons, unknownLines_cons, LineResult.instr?,
          except_map_eq_ok_iff, ih, eq_comm (a := a)]

/-- A source text gives an image exactly when no line of it refuses the program and at most 2048 are accepted. -/
theorem assemble_eq_ok_iff {source : List Char} {a : Assembly} :
    assemble source = .ok a ↔
      (∀ l ∈ sourceLines source, ¬refusesProgram l) ∧ (acceptedWords (sourceLines source)).length ≤ 2048 ∧
        a = ⟨acceptedWords (sourceLines source), unknownLines 1 (sourceLines source)⟩ := by
  rw [assemble_eq_ok, assembleLines_eq_ok]
  constructor
  · rintro ⟨⟨hlines, rfl⟩, hlen⟩
    exact ⟨hlines, hlen, rfl⟩
  · rintro ⟨hlines, hlen, rfl⟩
    exact ⟨⟨hlines, rfl⟩, hlen⟩

theorem except_exists_error_iff {ε α : Type} {x : Except ε α} : (∃ e, x = .error e) ↔ ¬∃ a, x = .ok a := by
  cases x <;> simp

/-- A source text is refused exactly when a line refuses the program or more than 2048 are accepted. -/
theorem assemble_eq_error_iff {source : List Char} :
    (∃ e, assemble source = .error e) ↔
      (∃ l ∈ sourceLines source, refusesProgram l) ∨ 2048 < (acceptedWords (sourceLines source)).length := by
  simp only [except_exists_error_iff, assemble_eq_ok_iff, exists_and_left, exists_eq, and_true, not_and_or, not_forall,
    not_not, not_le, exists_prop]

/-! ### Accepted records are in range (R97) -/

theorem immInRange_ofNat {n : Nat} (h : n ≤ 131071) : immInRange (BitVec.ofNat 32 n) = true := by
  rw [immInRange_iff, BitVec.toInt_ofNat', Int.bmod_eq_of_le (by omega) (by omega)]
  omega

theorem immInRange_neg_ofNat {n : Nat} (h : n ≤ 131072) : immInRange (-BitVec.ofNat 32 n) = true := by
  rw [immInRange_iff, BitVec.toInt_neg, BitVec.toInt_ofNat', Int.bmod_eq_of_le (n := n) (by omega) (by omega),
    Int.bmod_eq_of_le (by omega) (by omega)]
  omega

/-- The front-end accepts an immediate only in the range of its field (R97). -/
theorem immInRange_of_parseImm {t : List Char} {imm : Word} (h : parseImm t = some imm) : immInRange imm = true := by
  unfold parseImm at h
  split at h <;> split at h
  · cases h
  · obtain ⟨hn, himm⟩ := Option.ite_none_right_eq_some.1 h
    exact Option.some.inj himm ▸ immInRange_neg_ofNat hn
  · cases h
  · obtain ⟨hn, himm⟩ := Option.ite_none_right_eq_some.1 h
    exact Option.some.inj himm ▸ immInRange_ofNat hn

section
variable {ops : List (List Char)} {i : Instr}

theorem parseRegOp_eq_some {make : RegIdx → RegIdx → RegIdx → Instr} (h : parseRegOp make ops = some i) :
    ∃ r1 r2 r3, i = make r1 r2 r3 := by
  unfold parseRegOp at h
  split at h
  · simp only [Option.bind_eq_bind, Option.bind_eq_some_iff] at h
    obtain ⟨r1, -, r2, -, r3, -, hi⟩ := h
    exact ⟨r1, r2, r3, (Option.some.inj hi).symm⟩
  · cases h

theorem parseShiftOp_eq_some {make : RegIdx → RegIdx → BitVec 13 → Instr} (h : parseShiftOp make ops = some i) :
    ∃ r1 r2 shamt, i = make r1 r2 shamt := by
  unfold parseShiftOp at h
  split at h
  · simp only [Option.bind_eq_bind, Option.bind_eq_some_iff] at h
    obtain ⟨r1, -, r2, -, shamt, -, hi⟩ := h
    exact ⟨r1, r2, shamt, (Option.some.inj hi).symm⟩
  · cases h

theorem parseImmOp_eq_some {make : RegIdx → RegIdx → Word → Instr} (h : parseImmOp make ops = some i) :
    ∃ r1 r2 imm, immInRange imm = true ∧ i = make r1 r2 imm := by
  unfold parseImmOp at h
  split at h
  · simp only [Option.bind_eq_bind, Option.bind_eq_some_iff] at h
    obtain ⟨r1, -, r2, -, imm, himm, hi⟩ := h
    exact ⟨r1, r2, imm, immInRange_of_parseImm himm, (Option.some.inj hi).symm⟩
  · cases h

theorem parseJmpOp_eq_some {make : BitVec 28 → Instr} (h : parseJmpOp make ops = some i) :
    ∃ target, i = make target := by
  unfold parseJmpOp at h
  split at h
  · simp only [Option.bind_eq_bind, Option.bind_eq_some_iff] at h
    obtain ⟨target, -, hi⟩ := h
    exact ⟨target, (Option.some.inj hi).symm⟩
  · cases h

theorem LineResult.ofOperands_eq_accepted {o : Option Instr} :
    LineResult.ofOperands o = .accepted i ↔ o = some i := by
  cases o <;> simp [LineResult.ofOperands]

/-- An accepted line's record is legal: register numbers, shift amounts and targets are in range by their types, and
the front-end checks the immediate. -/
theorem wellFormed_of_parseTokens {tokens : List (List Char)} (h : parseTokens tokens = .accepted i) :
    i.wellFormed = true := by
  unfold parseTokens at h
  split at h
  case h_1 => cases h
  case h_2 mnemonic ops =>
    split at h
    case h_13 => cases h
    all_goals rw [LineResult.ofOperands_eq_accepted] at h
    case h_1 | h_2 | h_3 | h_6 =>
      obtain ⟨r1, r2, r3, rfl⟩ := parseRegOp_eq_some h
      rfl
    case h_9 | h_10 =>
      obtain ⟨r1, r2, shamt, rfl⟩ := parseShiftOp_eq_some h
      rfl
    case h_8 =>
      obtain ⟨target, rfl⟩ := parseJmpOp_eq_some h
      rfl
    all_goals
      obtain ⟨r1, r2, imm, himm, rfl⟩ := parseImmOp_eq_some h
      exact himm

end

/-- Every record the front-end accepts has its fields in range. -/
theorem wellFormed_of_mem_acceptedInstrs {lines : List (List Char)} {i : Instr} (h : i ∈ acceptedInstrs lines) :
    i.wellFormed = true := by
  obtain ⟨l, -, hl⟩ := List.mem_filterMap.1 h
  exact wellFormed_of_parseTokens (LineResult.instr?_eq_some.1 hl)

end Sys2Proof.Machine

/-! ## The statements of the front-end and the loader (30_encoding.md R95 to R99, R234) -/

section
open Sys2Proof Sys2Proof.Machine

/-- Settles O54: an image is the accepted words and the unknown lines of its text (`assembleLines_eq_ok`), and the
lines are the parts between line feeds. -/
theorem imageIsTheAcceptedLinesInOrder : Obligations.ImageIsTheAcceptedLinesInOrder := by
  refine ⟨fun n lines a h => ?_, fun source => ⟨?_, fun l hl => newline_notMem_of_mem_sourceLines hl⟩,
    fun source a h => ?_, fun source hlen => assemble_eq_error_iff.2 (.inr hlen), fun image hlen => ?_⟩
  · obtain ⟨-, rfl⟩ := assembleLines_eq_ok.1 h
    exact ⟨rfl, fun k => mem_unknownLines⟩
  · rw [sourceLines_eq_splitOn, List.intercalate_splitOn]
  · obtain ⟨-, hlen, rfl⟩ := assemble_eq_ok_iff.1 h
    exact ⟨rfl, hlen, fun k => mem_unknownLines⟩
  · rw [State.loadImage, dif_neg (by simpa using hlen)]

/-- Settles O56, by what an assembled text must be (`assemble_eq_ok_iff`). -/
theorem sourceIsRefusedExactlyForBadLines : Obligations.SourceIsRefusedExactlyForBadLines :=
  fun _ => assemble_eq_error_iff

/-- Settles O57: the program of a text is its accepted records, which are legal (`wellFormed_of_parseTokens`) and at
most 2048. -/
theorem assembledProgramsAreLoaded : Obligations.AssembledProgramsAreLoaded := by
  refine ⟨fun program hwf => if_pos (by simpa using hwf), fun program i hi hwf => if_neg ?_,
    fun line i h => wellFormed_of_parseTokens h, fun source a h => ?_⟩
  · intro hall
    rw [List.all_eq_true.1 hall i hi] at hwf
    cases hwf
  · obtain ⟨-, hlen, rfl⟩ := assemble_eq_ok_iff.1 h
    have hwords := acceptedWords_eq_map_encode (sourceLines source)
    have hload := State.loadImage_eq_ok.2 ⟨hlen, rfl⟩
    have hwf : ∀ i ∈ acceptedInstrs (sourceLines source), i.wellFormed = true :=
      fun i hi => wellFormed_of_mem_acceptedInstrs hi
    exact ⟨_, _, hwords, State.loadProgram_eq_ok.2 ⟨hwf, hwords ▸ hload⟩, hload⟩

end

/-! ## What each stage answers, forward (40_pipeline.md R104 to R125) -/

namespace Sys2Proof.Machine

variable {i : Instr} {s t : State}

/-! ### An instruction in the Write-back stage (R105) -/

/-- What the table of R105 asks of the WB latch. -/
def State.writeBackAction (s : State) (b : WbLatch) : WbAction → Out
  | .writeAlu r1 => s.wbAlu b r1
  | .writeMdr r1 => s.wbMdr b r1
  | .noWrite => s.wbNone

/-- In Write-back every instruction does what its row of the table says. -/
theorem exec_writeBack {b : WbLatch} (ha : s.acting = .writeBack) (hb : s.wbLatch = some b) :
    exec i s = s.writeBackAction b (wbAction i) := by
  cases i <;> exact State.inStage_writeBack ha hb

theorem writeBackStage_of_some {b : WbLatch} (hb : s.wbLatch = some b) :
    writeBackStage s = (s.actAt .writeBack).writeBackAction b (wbAction b.ins) := by
  simp only [writeBackStage, hb]
  exact exec_writeBack rfl hb

theorem writeBackStage_of_none (hb : s.wbLatch = none) : writeBackStage s = .next (s.actAt .writeBack) := by
  simp only [writeBackStage, hb]

/-- A register write, written out. -/
theorem State.writeReg_eq (s : State) (r : RegIdx) (v : Word) :
    s.writeReg r v = { s with regs := if r = 0 then s.regs else s.regs.set r v } := by
  unfold State.writeReg
  split <;> rfl

/-! ### An instruction in the Memory stage (R106) -/

/-- The two instructions that make a memory access in MEM. -/
def accessesMemory : Instr → Bool
  | .movr _ _ _ => true
  | .movm _ _ _ => true
  | _ => false

theorem accessesMemory_eq_false (hload : ∀ r1 r2 imm, i ≠ .movr r1 r2 imm)
    (hstore : ∀ r1 r2 imm, i ≠ .movm r1 r2 imm) : accessesMemory i = false := by
  cases i
  case movr r1 r2 imm => exact absurd rfl (hload r1 r2 imm)
  case movm r1 r2 imm => exact absurd rfl (hstore r1 r2 imm)
  all_goals rfl

/-- Only instructions that carry an ALU result access the memory: their address. -/
theorem accessesMemory_of_carriesAlu (h : carriesAlu i = false) : accessesMemory i = false := by
  cases i
  case jeq | jmp => rfl
  all_goals cases h

section
variable {m : MemLatch} (hm : s.memLatch = some m)
include hm

theorem exec_memory_pass (ha : s.acting = .memory) (hi : accessesMemory i = false) : exec i s = s.memPass m := by
  cases i
  case movr => cases hi
  case movm => cases hi
  all_goals exact State.inStage_memory ha hm

theorem exec_memory_movr (ha : s.acting = .memory) (r1 r2 : RegIdx) (imm : Word) :
    exec (.movr r1 r2 imm) s = s.memLoad m :=
  State.inStage_memory ha hm

theorem exec_memory_movm (ha : s.acting = .memory) (r1 r2 : RegIdx) (imm : Word) :
    exec (.movm r1 r2 imm) s = s.memStore m r1 :=
  State.inStage_memory ha hm

theorem memoryStage_pass (hi : accessesMemory m.ins = false) :
    memoryStage s = .next ((s.actAt .memory).passToWb m none) := by
  simp only [memoryStage, hm]
  exact exec_memory_pass (s := s.actAt .memory) hm rfl hi

theorem memoryStage_movr {r1 r2 : RegIdx} {imm a : Word} (hi : m.ins = .movr r1 r2 imm) (ha : m.alu = some a) :
    memoryStage s =
      if a.toNat < 2048 then .next ((s.actAt .memory).passToWb m (some (s.memory.read a.toNat)))
      else .fault (.raised (.memOutOfBounds s.cycle 10 a m.ia m.word)) := by
  have hexec : memoryStage s = (s.actAt .memory).memLoad m := by
    simp only [memoryStage, hm, hi]
    exact exec_memory_movr (s := s.actAt .memory) hm rfl r1 r2 imm
  rw [hexec]
  by_cases hlt : a.toNat < 2048 <;>
    simp [State.memLoad, ha, State.memRead, inBounds, hlt, State.raiseMem, hi, Instr.opcode]

theorem memoryStage_movm {r1 r2 : RegIdx} {imm a : Word} (hi : m.ins = .movm r1 r2 imm) (ha : m.alu = some a) :
    memoryStage s =
      if a.toNat < 2048 then
        .next (({ s with memory := s.memory.write a.toNat (s.readReg r1) } : State).actAt .memory |>.passToWb m none)
      else .fault (.raised (.memOutOfBounds s.cycle 11 a m.ia m.word)) := by
  have hexec : memoryStage s = (s.actAt .memory).memStore m r1 := by
    simp only [memoryStage, hm, hi]
    exact exec_memory_movm (s := s.actAt .memory) hm rfl r1 r2 imm
  rw [hexec]
  by_cases hlt : a.toNat < 2048
  · simp only [State.memStore, ha, State.memWrite, inBounds, hlt, decide_true, if_true]
    rfl
  · simp [State.memStore, ha, State.memWrite, inBounds, hlt, State.raiseMem, hi, Instr.opcode]

end

theorem memoryStage_of_none (hm : s.memLatch = none) : memoryStage s = .next (s.actAt .memory) := by
  simp only [memoryStage, hm]

/-! ### Execute and Decode (R108, R118) -/

theorem countDown_eq_zero_iff {c : Count} : countDown c = 0 ↔ c ≠ 2 := by
  revert c; decide

theorem countDown_of_ne_two {c : Count} (h : c ≠ 2) : countDown c = 0 := countDown_eq_zero_iff.2 h

theorem executeStage_of_none (he : s.exLatch = none) : executeStage s = .next (s.actAt .execute) := by
  simp only [executeStage, he]

/-- A fresh execute counter is counted down, and nothing else happens. -/
theorem executeStage_of_two {e : ExLatch} (he : s.exLatch = some e) (hcnt : e.ecnt = 2) :
    executeStage s = .next ((s.countExecute e).actAt .execute) := by
  simp only [executeStage, he]
  exact if_neg fun hz => countDown_eq_zero_iff.1 hz hcnt

/-- At the last cycle the instruction does its own Execute action. -/
theorem executeStage_of_one {e : ExLatch} (he : s.exLatch = some e) (hcnt : e.ecnt = 1) :
    executeStage s = exec e.ins ((s.countExecute e).actAt .execute) := by
  simp only [executeStage, he]
  exact if_pos (by rw [hcnt]; rfl)

theorem decodeStage_of_none (hd : s.idLatch = none) : decodeStage s = .next s := by
  simp only [decodeStage, hd]

section
variable {d : IdLatch} (hd : s.idLatch = some d)
include hd

/-- Decode only counts down while the counter is fresh or EX is occupied. -/
theorem decodeStage_of_wait (h : d.dcnt = 2 ∨ s.exLatch ≠ none) : decodeStage s = .next (s.countDecode d) := by
  simp only [decodeStage, hd]
  refine if_neg fun ⟨hz, he⟩ => ?_
  rcases h with h | h
  · exact countDown_eq_zero_iff.1 hz h
  · exact h he

theorem decodeStage_of_ok (hcnt : d.dcnt ≠ 2) (he : s.exLatch = none) (hi : decode d.word = .ok i) :
    decodeStage s = .next (s.passToEx d i) := by
  simp only [decodeStage, hd, hi, if_pos (And.intro (countDown_of_ne_two hcnt) he)]

theorem decodeStage_of_error (hcnt : d.dcnt ≠ 2) (he : s.exLatch = none) {err : DecodeError}
    (herr : decode d.word = .error err) : decodeStage s = s.raiseOpcode d := by
  simp only [decodeStage, hd, herr, if_pos (And.intro (countDown_of_ne_two hcnt) he)]

end

end Sys2Proof.Machine

/-! ## The statements of the single stages (40_pipeline.md R104 to R126) -/

section
open Sys2Proof Sys2Proof.Machine

/-- Settles O25, by the row of the table that the record in WB has (`writeBackStage_of_some`). -/
theorem writeBackStageFollowsItsTable : Obligations.WriteBackStageFollowsItsTable := by
  refine fun s => ⟨writeBackStage_of_none, fun b r v hb hv => ?_, fun b hb hn => ?_⟩ <;>
    rw [writeBackStage_of_some hb]
  · rcases hv with ⟨hw, halu⟩ | ⟨hw, hmdr⟩
    · simp only [hw, State.writeBackAction, State.wbAlu, halu, State.writeReg_eq]
      rfl
    · simp only [hw, State.writeBackAction, State.wbMdr, hmdr, State.writeReg_eq]
      rfl
  · rw [hn]
    rfl

/-- Settles O26, by the three kinds of instruction that MEM tells apart: MOVR, MOVM and the rest. -/
theorem memoryStageAccessesAndMovesOn : Obligations.MemoryStageAccessesAndMovesOn :=
  fun _ => ⟨memoryStage_of_none, fun _ hm =>
    ⟨fun hload hstore => memoryStage_pass hm (accessesMemory_eq_false hload hstore),
      fun _ _ _ _ hi ha => memoryStage_movr hm hi ha, fun _ _ _ _ hi ha => memoryStage_movm hm hi ha⟩⟩

/-- Settles O27, by the value of the execute counter. -/
theorem executeStageCountsThenCompletes : Obligations.ExecuteStageCountsThenCompletes :=
  fun _ => ⟨executeStage_of_none, fun _ he => ⟨executeStage_of_two he, executeStage_of_one he⟩⟩

/-- Settles O28, by the value of the decode counter and whether EX is occupied. -/
theorem decodeStageCountsThenMovesOn : Obligations.DecodeStageCountsThenMovesOn := by
  refine fun s => ⟨decodeStage_of_none, fun d hd => ⟨fun hcnt => ?_, fun hcnt he => ?_, fun hcnt he =>
    ⟨fun i hi => decodeStage_of_ok hd hcnt he hi, fun hop => ?_⟩⟩⟩
  · rw [decodeStage_of_wait hd (.inl hcnt), State.countDecode, hcnt]
    rfl
  · rw [decodeStage_of_wait hd (.inr he), State.countDecode, countDown_of_ne_two hcnt]
  · exact decodeStage_of_error hd hcnt he (decode_eq_error hop)

/-- Settles O29, by the value of the suppression counter. -/
theorem fetchStageFetchesOrWaits : Obligations.FetchStageFetchesOrWaits := by
  refine fun s => ⟨fun h => ?_, fun h => ?_, fetchStage_eq_fetchWord, fetchStage_eq_self⟩ <;>
    rw [fetchStage_of_suppressed (by rw [h]; decide), h] <;> rfl

/-- Settles O30, by the two cases of the transfer. -/
theorem transferStageMovesAfterTheFirstCycle : Obligations.TransferStageMovesAfterTheFirstCycle := by
  refine fun s => ⟨fun f hc hf hd => transferStage_eq_move hf hc hd, fun h => transferStage_eq_self ?_⟩
  rcases h with h | h | h
  · exact .inr (.inl h)
  · exact .inl h
  · exact .inr (.inr h)

end

/-! ## One instruction at a time (70_reset_and_hazards.md R242) -/

namespace Sys2Proof.Machine

variable {i : Instr} {s t : State}

/-! ### What Execute computes (R108, R110, R190, R193) -/

/-- The ALU result of an instruction, none for JEQ and JMP (R112). -/
def aluResult (i : Instr) (a : ArchState) : Option Word :=
  match i with
  | .add _ r2 r3 => some (aluAdd (a.readReg r2) (a.readReg r3))
  | .sub _ r2 r3 => some (aluSub (a.readReg r2) (a.readReg r3))
  | .mul _ r2 r3 => some (aluMul (a.readReg r2) (a.readReg r3))
  | .movi _ _ imm => some imm
  | .jeq _ _ _ => none
  | .and _ r2 r3 => some (aluAnd (a.readReg r2) (a.readReg r3))
  | .xori _ r2 imm => some (aluXor (a.readReg r2) imm)
  | .jmp _ => none
  | .lsl _ r2 shamt => some (aluLsl (a.readReg r2) shamt)
  | .lsr _ r2 shamt => some (aluLsr (a.readReg r2) shamt)
  | .movr _ r2 imm => some (a.readReg r2 + imm)
  | .movm _ r2 imm => some (a.readReg r2 + imm)

/-- The target of an instruction that is a taken branch (R190, R193). -/
def branchTarget (i : Instr) (a : ArchState) : Option Word :=
  match i with
  | .jeq r1 r2 imm => if a.readReg r1 = a.readReg r2 then some (a.pc + 1 + imm) else none
  | .jmp target => some (target.setWidth 32)
  | _ => none

theorem carriesAlu_of_branchTarget {a : ArchState} {x : Word} (h : branchTarget i a = some x) :
    carriesAlu i = false := by
  cases i
  case jeq | jmp => rfl
  all_goals cases h

theorem aluResult_eq_none {a : ArchState} (h : carriesAlu i = false) : aluResult i a = none := by
  cases i
  case jeq | jmp => rfl
  all_goals cases h

/-- The registers and the memory of a working copy, for an instruction at `ia` whose older write-backs are done. -/
def State.archAt (s : State) (ia : Word) : ArchState := { regs := s.regs, memory := s.memory, pc := ia }

theorem State.archAt_eq_archView {ia : Word} (hregs : t.regs = s.settledRegs) (hmem : t.memory = s.memory) :
    t.archAt ia = s.archView ia := by
  rw [State.archAt, State.archView, hregs, hmem]

/-- With the PC at most 2048 a JMP keeps four zero bits, so it goes to its own field (R193, R194). -/
theorem jmpTarget_eq_setWidth {pc : Word} (hpc : pc.toNat ≤ Config.memWords) (target : BitVec 28) :
    jmpTarget pc target = target.setWidth 32 := by
  have hhigh : pc.extractLsb' 28 4 = 0#4 := BitVec.eq_of_toNat_eq (by
    rw [BitVec.extractLsb'_toNat, Nat.shiftRight_eq_div_pow, Nat.div_eq_of_lt (hpc.trans_lt (by decide))]
    rfl)
  apply BitVec.eq_of_toNat_eq
  rw [jmpTarget, hhigh, toNat_append_eq_add, BitVec.toNat_setWidth, Nat.mod_eq_of_lt (by omega)]
  simp

section
variable {e : ExLatch} (he : s.exLatch = some e)
include he

/-- Completing Execute without a taken branch hands the ALU result to MEM. -/
theorem exec_execute_straight (ha : s.acting = .execute) (hb : branchTarget i (s.archAt e.ia) = none) :
    exec i s = .next (s.passToMem e (aluResult i (s.archAt e.ia))) := by
  cases i
  case jeq r1 r2 imm =>
    have hne : ¬s.readReg r1 = s.readReg r2 := fun heq => by cases (if_pos heq).symm.trans hb
    have hreg : s.registersEqual r1 r2 = false := by simpa [State.registersEqual] using hne
    rw [exec, execJeq, State.inStage_execute ha he, hreg]
    rfl
  case jmp => cases hb
  all_goals exact State.inStage_execute ha he

/-- A taken branch redirects to its target or faults. -/
theorem exec_execute_taken {x : Word} (ha : s.acting = .execute) (hpc : s.pc.toNat ≤ Config.memWords)
    (hb : branchTarget i (s.archAt e.ia) = some x) : exec i s = s.finishTaken e x := by
  cases i
  case jeq r1 r2 imm =>
    obtain ⟨heq, hx⟩ := Option.ite_none_right_eq_some.1 hb
    have hreg : s.registersEqual r1 r2 = true := beq_iff_eq.2 heq
    rw [exec, execJeq, State.inStage_execute ha he, hreg, ← Option.some.inj hx]
    rfl
  case jmp target =>
    rw [exec, execJmp, State.inStage_execute ha he, jmpTarget_eq_setWidth hpc, ← Option.some.inj hb]
  all_goals cases hb

/-- At the last cycle of Execute the instruction moves to MEM with its ALU result, and goes to its branch target where
it has one. -/
theorem executeStage_last (hcnt : e.ecnt = 1) (hpc : s.pc.toNat ≤ Config.memWords) (h : executeStage s = .next t) :
    (branchTarget e.ins (s.archAt e.ia) = none ∧
        t = (s.actAt .execute).passToMem e (aluResult e.ins (s.archAt e.ia))) ∨
      ∃ x, branchTarget e.ins (s.archAt e.ia) = some x ∧ inBounds x = true ∧
        t = ((s.actAt .execute).redirect x).passToMem e none := by
  rw [executeStage_of_one he hcnt] at h
  have hex : ((s.countExecute e).actAt .execute).exLatch = some { e with ecnt := countDown e.ecnt } := rfl
  cases hb : branchTarget e.ins (s.archAt e.ia) with
  | none =>
    rw [exec_execute_straight hex rfl hb] at h
    exact .inl ⟨rfl, (Host.Outcome.next.inj h).symm⟩
  | some x =>
    rw [exec_execute_taken hex rfl hpc hb] at h
    obtain ⟨hin, rfl⟩ := State.finishTaken_eq_next.1 h
    exact .inr ⟨x, rfl, hin, rfl⟩

end

/-! ### The instruction-at-a-time machine by what Execute computes -/

/-- The datapath's left shift is the shift of the bit vectors (R157). -/
theorem aluLsl_eq_shiftLeft (x : Word) (shamt : BitVec 13) : aluLsl x shamt = x <<< shamt.toNat := by
  unfold aluLsl
  split
  · exact BitVec.eq_of_toNat_eq (by simp [Nat.shiftLeft_eq])
  · exact (BitVec.shiftLeft_eq_zero (by omega)).symm

/-- The datapath's right shift is the shift of the bit vectors (R158). -/
theorem aluLsr_eq_ushiftRight (x : Word) (shamt : BitVec 13) : aluLsr x shamt = x >>> shamt.toNat := by
  unfold aluLsr
  split
  · refine BitVec.eq_of_toNat_eq ?_
    rw [BitVec.toNat_ofNat, BitVec.toNat_ushiftRight, Nat.shiftRight_eq_div_pow]
    exact Nat.mod_eq_of_lt ((Nat.div_le_self _ _).trans_lt x.isLt)
  · exact (BitVec.ushiftRight_eq_zero (by omega)).symm

/-- One whole instruction: an ALU instruction writes its ALU result, a branch goes to its target or on, and the other
two are the load and the store. -/
theorem archStep_cases (i : Instr) (a : ArchState) :
    (∃ r v, wbAction i = .writeAlu r ∧ accessesMemory i = false ∧ branchTarget i a = none ∧
        aluResult i a = some v ∧ archStep i a = some (a.writeNext r v)) ∨
      (wbAction i = .noWrite ∧ accessesMemory i = false ∧
        (branchTarget i a = none ∧ archStep i a = some { a with pc := a.pc + 1 } ∨
          ∃ x, branchTarget i a = some x ∧ archStep i a = a.goTo x)) ∨
      (∃ r1 r2 imm, i = .movr r1 r2 imm) ∨ ∃ r1 r2 imm, i = .movm r1 r2 imm := by
  cases i
  case jeq r1 r2 imm =>
    refine .inr (.inl ⟨rfl, rfl, ?_⟩)
    by_cases heq : a.readReg r1 = a.readReg r2
    · exact .inr ⟨a.pc + 1 + imm, if_pos heq, if_pos heq⟩
    · exact .inl ⟨if_neg heq, if_neg heq⟩
  case jmp target => exact .inr (.inl ⟨rfl, rfl, .inr ⟨_, rfl, rfl⟩⟩)
  case movr r1 r2 imm => exact .inr (.inr (.inl ⟨r1, r2, imm, rfl⟩))
  case movm r1 r2 imm => exact .inr (.inr (.inr ⟨r1, r2, imm, rfl⟩))
  case lsl => exact .inl ⟨_, _, rfl, rfl, rfl, rfl, by rw [aluLsl_eq_shiftLeft]; rfl⟩
  case lsr => exact .inl ⟨_, _, rfl, rfl, rfl, rfl, by rw [aluLsr_eq_ushiftRight]; rfl⟩
  all_goals exact .inl ⟨_, _, rfl, rfl, rfl, rfl, rfl⟩

/-! ### Settled registers (R104) -/

theorem State.settledRegs_congr (hregs : t.regs = s.regs) (hwb : t.wbLatch = s.wbLatch) :
    t.settledRegs = s.settledRegs := by
  simp only [State.settledRegs, hwb, hregs, State.writeReg_regs]

theorem State.settledRegs_of_pending {b : WbLatch} {r : RegIdx} {v : Word} (hb : s.wbLatch = some b)
    (hp : b.pending = some (r, v)) : s.settledRegs = if r = 0 then s.regs else s.regs.set r v := by
  simp [State.settledRegs, hb, hp]

/-- Nothing is pending where WB is empty or holds an instruction that writes no register. -/
theorem State.settledRegs_of_noWrite (h : ∀ b ∈ s.wbLatch, wbAction b.ins = .noWrite) : s.settledRegs = s.regs := by
  unfold State.settledRegs
  cases hb : s.wbLatch with
  | none => rfl
  | some b => simp [WbLatch.pending, h b hb]

/-- The Memory stage completes the sequential effect of an instruction that comes from Execute with its ALU result, the
register write still pending in WB. -/
theorem memoryStage_archStep {m : MemLatch} {a : ArchState} (hm : s.memLatch = some m)
    (halu : m.alu = aluResult m.ins a) (hregs : s.regs = a.regs) (hmem : s.memory = a.memory)
    (hbranch : ∀ x, branchTarget m.ins a = some x → inBounds x = true) (h : memoryStage s = .next t) :
    ∃ a', archStep m.ins a = some a' ∧ t.settledRegs = a'.regs ∧ t.memory = a'.memory ∧
      a'.pc = (branchTarget m.ins a).getD (a.pc + 1) := by
  have hread (r : RegIdx) : s.readReg r = a.readReg r := by simp only [State.readReg, ArchState.readReg, hregs]
  rcases archStep_cases m.ins a with ⟨r, v, hw, hi, hnone, hv, hstep⟩ | ⟨hw, hi, hcase⟩ | ⟨r1, r2, imm, hi⟩ |
    ⟨r1, r2, imm, hi⟩
  · rw [memoryStage_pass hm hi] at h
    cases h
    refine ⟨_, hstep, ?_, hmem, by rw [hnone]; rfl⟩
    have hpend : (⟨m.word, m.ia, m.ins, m.alu, none⟩ : WbLatch).pending = some (r, v) :=
      WbLatch.pending_eq_some.2 (.inl ⟨hw, halu.trans hv⟩)
    rw [State.settledRegs_of_pending (State.passToWb_wbLatch ..) hpend, ArchState.writeNext, ← hregs]
    rfl
  · rw [memoryStage_pass hm hi] at h
    cases h
    have hsettled : ((s.actAt .memory).passToWb m none).settledRegs = a.regs :=
      (State.settledRegs_of_noWrite (by rintro _ ⟨⟩; exact hw)).trans hregs
    rcases hcase with ⟨hnone, hstep⟩ | ⟨x, hx, hstep⟩
    · exact ⟨_, hstep, hsettled, hmem, by rw [hnone]; rfl⟩
    · rw [ArchState.goTo, if_pos (hbranch x hx)] at hstep
      exact ⟨_, hstep, hsettled, hmem, by rw [hx]; rfl⟩
  · rw [hi] at halu
    rw [memoryStage_movr hm hi halu] at h
    split at h
    · next hlt =>
      cases h
      have hstep : archStep m.ins a = some (a.writeNext r1 (a.memory.read (a.readReg r2 + imm).toNat)) := by
        rw [hi]
        exact if_pos (inBounds_iff.2 hlt)
      refine ⟨_, hstep, ?_, hmem, by rw [hi]; rfl⟩
      have hpend {v : Word} : (⟨m.word, m.ia, m.ins, m.alu, some v⟩ : WbLatch).pending = some (r1, v) :=
        WbLatch.pending_eq_some.2 (.inr ⟨by rw [hi]; rfl, rfl⟩)
      rw [State.settledRegs_of_pending (State.passToWb_wbLatch ..) hpend, ArchState.writeNext, ← hregs, ← hmem]
      rfl
    · cases h
  · rw [hi] at halu
    rw [memoryStage_movm hm hi halu] at h
    split at h
    · next hlt =>
      cases h
      have hstep : archStep m.ins a = some { a with
          memory := a.memory.write (a.readReg r2 + imm).toNat (a.readReg r1), pc := a.pc + 1 } := by
        rw [hi]
        exact if_pos (inBounds_iff.2 hlt)
      refine ⟨_, hstep, (State.settledRegs_of_noWrite (by rintro _ ⟨⟩; rw [hi]; rfl)).trans hregs, ?_,
        by rw [hi]; rfl⟩
      show s.memory.write _ (s.readReg r1) = a.memory.write _ (a.readReg r1)
      rw [hmem, hread]
    · cases h

end Sys2Proof.Machine

/-! ## The cycle in which an instruction completes Execute (40_pipeline.md R108 to R117, R141 to R145) -/

namespace Sys2Proof.Machine

variable {s t : State}

/-! ### The two kinds of cycle by what the latches hold -/

theorem State.Inv.evenOk (hs : s.Inv) (hpar : s.cycle % 2 = 0) : s.EvenOk := by
  obtain ⟨-, -, htiming, -, -⟩ := hs
  rwa [State.TimingOk, if_pos hpar] at htiming

theorem State.Inv.oddOk (hs : s.Inv) (hpar : s.cycle % 2 = 1) : s.OddOk := by
  obtain ⟨-, -, htiming, -, -⟩ := hs
  rwa [State.TimingOk, if_neg (by omega)] at htiming

/-- An instruction with one cycle left in EX is there after an odd number of cycles. -/
theorem State.Inv.odd_of_last {e : ExLatch} (hs : s.Inv) (he : s.exLatch = some e) (hcnt : e.ecnt = 1) :
    s.cycle % 2 = 1 := by
  by_contra hpar
  obtain ⟨-, -, -, hex, -⟩ := hs.evenOk (by omega)
  exact absurd (hcnt.symm.trans (hex e he)) (by decide)

/-- An instruction with two cycles left in EX is there after an even number of cycles. -/
theorem State.Inv.even_of_ex_fresh {e : ExLatch} (hs : s.Inv) (he : s.exLatch = some e) (hcnt : e.ecnt = 2) :
    s.cycle % 2 = 0 := by
  by_contra hpar
  obtain ⟨-, -, hex, -⟩ := hs.oddOk (by omega)
  exact absurd (hcnt.symm.trans (hex e he)) (by decide)

/-- And a word with two cycles left in ID. -/
theorem State.Inv.even_of_id_fresh {d : IdLatch} (hs : s.Inv) (hd : s.idLatch = some d) (hcnt : d.dcnt = 2) :
    s.cycle % 2 = 0 := by
  by_contra hpar
  obtain ⟨-, hid, -⟩ := hs.oddOk (by omega)
  exact absurd (hcnt.symm.trans (hid d hd)) (by decide)

/-- A word with fewer than two cycles left in ID is there after an odd number of cycles. -/
theorem State.Inv.odd_of_id_last {d : IdLatch} (hs : s.Inv) (hd : s.idLatch = some d) (hcnt : d.dcnt ≠ 2) :
    s.cycle % 2 = 1 := by
  by_contra hpar
  obtain ⟨-, -, hid, -⟩ := hs.evenOk (by omega)
  exact hcnt (hid d hd)

/-- MEM is occupied only after an even number of cycles. -/
theorem State.Inv.even_of_memLatch (hs : s.Inv) (hm : s.memLatch ≠ none) : s.cycle % 2 = 0 := by
  by_contra hpar
  obtain ⟨hnone, -⟩ := hs.oddOk (by omega)
  exact hm hnone

/-- A step that does not end faulted is a cycle that does not fault. -/
theorem runCycle_of_step (h : step s = .next t) (hok : t.notFaulted) : s.status = .running ∧ runCycle s = .next t := by
  obtain ⟨hrun, hcycle | ⟨r, -, rfl⟩⟩ := step_eq_next.1 h
  · exact ⟨hrun, hcycle⟩
  · cases hok

/-- Only a load or a store in MEM makes a memory access (R106). -/
theorem memoryStage_memory (h : memoryStage s = .next t) (hm : ∀ m ∈ s.memLatch, accessesMemory m.ins = false) :
    t.memory = s.memory := by
  cases hml : s.memLatch with
  | none =>
    rw [memoryStage_of_none hml] at h
    cases h
    rfl
  | some m =>
    rw [memoryStage_pass hml (hm m hml)] at h
    cases h
    rfl

theorem runCycle_memory (h : runCycle s = .next t) (hm : ∀ m ∈ s.memLatch, accessesMemory m.ins = false) :
    t.memory = s.memory := by
  obtain ⟨s1, s2, s3, s4, h1, h2, h3, h4, rfl⟩ := runCycle_eq_next.1 h
  obtain ⟨-, hmem, -⟩ := frontStages_frame s4
  rw [hmem, (decodeStage_frame h4).1.memory, (executeStage_frame h3).memory]
  obtain rfl := writeBackStage_next_eq h1
  exact (memoryStage_memory h2 hm :)

/-! ### Completing Execute -/

/-- What the cycle that completes the Execute stage of `e` leaves: the instruction in MEM with its ALU result, and
either the younger instructions one stage on, or a taken branch at its target with no younger instruction left. -/
structure CompletingCycle (s t : State) (e : ExLatch) : Prop where
  regs : t.regs = s.settledRegs
  memory : t.memory = s.memory
  icount : t.icount = s.icount
  wbLatch : t.wbLatch = none
  memLatch : t.memLatch = some ⟨e.word, e.ia, e.ins, aluResult e.ins (s.archView e.ia)⟩
  ifLatch : t.ifLatch = none
  younger : (branchTarget e.ins (s.archView e.ia) = none ∧ StraightCycle s t) ∨
    (branchTarget e.ins (s.archView e.ia) = some t.pc ∧ inBounds t.pc = true ∧ t.idLatch = none ∧ t.exLatch = none ∧
      t.fsup = 1)

/-- The fetch-suppression counter at the end of a cycle is 0 where none was pending, and 1 right after a branch. -/
theorem fetchStage_fsup (s : State) : (fetchStage s).fsup = countDown s.fsup := by
  rcases fetchStage_cases s with ⟨-, h⟩ | ⟨h0, -, -, h⟩ | ⟨h0, -, h⟩ <;> rw [h]
  · rw [s.fetchWord_fsup, h0]; rfl
  · rw [h0]; rfl

theorem completingCycle_of_runCycle {e : ExLatch} (hpar : s.cycle % 2 = 1) (hodd : s.OddOk)
    (hpc : s.pc.toNat ≤ Config.memWords) (he : s.exLatch = some e) (h : runCycle s = .next t) :
    CompletingCycle s t e := by
  have effect := cycleEffect_of_runCycle h
  have cyc := oddCycle_of_runCycle hpar hodd h
  obtain ⟨hmem, -, hex, hsup, -⟩ := hodd
  have hmemory : t.memory = s.memory := runCycle_memory h (by simp [hmem])
  obtain ⟨s2, s3, s4, back, h3, h4, ht⟩ := runCycle_next h
  obtain ⟨mid4, hpc4, -, hmem4, hsup4⟩ := decodeStage_frame h4
  obtain ⟨-, hmemT, -, hmemLatchT, -⟩ := frontStages_frame s4
  rw [← ht] at hmemT hmemLatchT
  have hview : s2.archAt e.ia = s.archView e.ia := State.archAt_eq_archView back.regs (by
    rw [← hmemory, hmemT, mid4.memory, (executeStage_frame h3).memory])
  have hlast := executeStage_last (by rw [back.exLatch, he]) (hex e he) (by rwa [back.pc]) h3
  rw [hview] at hlast
  have hsupT : t.fsup = countDown s3.fsup := by
    rw [ht, drainCheck_fsup, transferStage_fsup, fetchStage_fsup, hsup4]
  have done (hm : s3.memLatch = some ⟨e.word, e.ia, e.ins, aluResult e.ins (s.archView e.ia)⟩) younger :
      CompletingCycle s t e :=
    { regs := effect.regs
      memory := hmemory
      icount := effect.icount
      wbLatch := effect.wbLatch_of_none hmem
      memLatch := by rw [hmemLatchT, hmem4, hm]
      ifLatch := cyc.ifLatch
      younger := younger }
  rcases hlast with ⟨hnone, rfl⟩ | ⟨x, hx, hin, rfl⟩
  · have hf : t.fsup = 0 := by
      rw [hsupT, State.passToMem_fsup, State.actAt_fsup, back.fsup, hsup]
      rfl
    rcases cyc.younger with ⟨-, -, hf1⟩ | straight
    · exact absurd (hf.symm.trans hf1) (by decide)
    · exact done rfl (.inl ⟨hnone, straight⟩)
  · have hf : t.fsup = 1 := hsupT
    have hpcT : t.pc = x := by
      have hsup4 : s4.fsup ≠ 0 := by rw [hsup4]; exact (by decide : (2 : Count) ≠ 0)
      rw [ht, drainCheck_pc, transferStage_pc, fetchStage_of_suppressed hsup4]
      exact hpc4
    have halu := aluResult_eq_none (a := s.archView e.ia) (carriesAlu_of_branchTarget hx)
    rcases cyc.younger with ⟨hid, hexT, -⟩ | straight
    · exact done (by rw [halu]; rfl) (.inr ⟨by rw [hx, hpcT], by rwa [hpcT], hid, hexT, hf⟩)
    · exact absurd (straight.fsup.symm.trans hf) (by decide)

/-- The same from the invariant, for a step that does not fault. -/
theorem State.Inv.completingCycle {e : ExLatch} (hs : s.Inv) (he : s.exLatch = some e) (hcnt : e.ecnt = 1)
    (h : step s = .next t) (hok : t.notFaulted) : CompletingCycle s t e := by
  have hpar := hs.odd_of_last he hcnt
  have hodd := hs.oddOk hpar
  obtain ⟨⟨-, -, hpc⟩, -⟩ := hs
  exact completingCycle_of_runCycle hpar hodd hpc he (runCycle_of_step h hok).2

/-- A suppression pends at the end of that cycle exactly where a branch was taken, and the branch is in MEM. -/
theorem CompletingCycle.taken {e : ExLatch} (cyc : CompletingCycle s t e) (hf : t.fsup ≠ 0) :
    branchTarget e.ins (s.archView e.ia) = some t.pc ∧ t.idLatch = none ∧ t.exLatch = none ∧
      t.memLatch = some ⟨e.word, e.ia, e.ins, none⟩ ∧ t.fsup = 1 := by
  rcases cyc.younger with ⟨-, straight⟩ | ⟨hx, -, hid, hex, hf1⟩
  · exact absurd straight.fsup hf
  · have hm := cyc.memLatch
    rw [aluResult_eq_none (carriesAlu_of_branchTarget hx)] at hm
    exact ⟨hx, hid, hex, hm, hf1⟩

/-! ### The cycle after it -/

/-- The address of the next instruction in program order after `e`. -/
def State.nextAddress (s : State) (e : ExLatch) : Word := (branchTarget e.ins (s.archView e.ia)).getD (e.ia + 1)

/-- The Memory stage of the next cycle gives the sequential effect of the instruction. -/
theorem CompletingCycle.archStep {e : ExLatch} {s1 s2 : State} (cyc : CompletingCycle s s1 e)
    (h : runCycle s1 = .next s2) :
    ∃ a, archStep e.ins (s.archView e.ia) = some a ∧ s2.settledRegs = a.regs ∧ s2.memory = a.memory ∧
      a.pc = s.nextAddress e := by
  obtain ⟨u1, u2, u3, u4, h1, h2, h3, h4, ht⟩ := runCycle_eq_next.1 h
  have hu1 := writeBackStage_next_eq h1
  have hregs : u1.regs = s.settledRegs := by
    rw [hu1, ← cyc.regs, ← State.settledRegs_of_noWrite (s := s1) (by simp [cyc.wbLatch])]
    exact s1.beginCycle_settledRegs
  have hmemory : u1.memory = s.memory := by rw [hu1]; exact cyc.memory
  have hmemLatch : u1.memLatch = some ⟨e.word, e.ia, e.ins, aluResult e.ins (s.archView e.ia)⟩ := by
    rw [hu1]; exact cyc.memLatch
  have hbranch : ∀ x, branchTarget e.ins (s.archView e.ia) = some x → inBounds x = true := by
    intro x hx
    rcases cyc.younger with ⟨hnone, -⟩ | ⟨hpc, hin, -⟩
    · cases hnone.symm.trans hx
    · cases hpc.symm.trans hx
      exact hin
  obtain ⟨a, hstep, hsettled, hmem, hpc⟩ :=
    memoryStage_archStep (a := s.archView e.ia) hmemLatch rfl hregs hmemory hbranch h2
  have mid3 := executeStage_frame h3
  have mid4 := (decodeStage_frame h4).1
  obtain ⟨hregsT, hmemT, -, -, hwbT, -⟩ := frontStages_frame u4
  rw [← ht, mid4.regs, mid3.regs] at hregsT
  rw [← ht, mid4.memory, mid3.memory] at hmemT
  rw [← ht, mid4.wbLatch, mid3.wbLatch] at hwbT
  exact ⟨a, hstep, (State.settledRegs_congr hregsT hwbT).trans hsettled, hmemT.trans hmem, hpc⟩

/-- Straight on, the next cycle leaves in EX the instruction that was in ID, which is the next one in order; where ID
was empty the program has ended and the PC is at the next address. -/
theorem StraightCycle.next_in_ex {e : ExLatch} {s1 s2 : State} (straight : StraightCycle s s1)
    (even : EvenCycle s1 s2) (hicount : s1.icount = s.icount) (horder : s.OrderOk) (he : s.exLatch = some e) :
    (∀ e2, s2.exLatch = some e2 → e2.ia = e.ia + 1 ∧ e2.ecnt = 1) ∧ (s2.exLatch = none → s2.pc = e.ia + 1) := by
  obtain ⟨hex, -⟩ := horder
  obtain ⟨hnext, -, -, hend⟩ := hex e he
  rw [even.exLatch]
  cases hd : s.idLatch with
  | some d =>
    obtain ⟨ins, hex1⟩ := straight.exLatch_of_some d hd
    rw [hex1]
    refine ⟨fun e2 he2 => ?_, nofun⟩
    cases he2
    exact ⟨hnext d hd, rfl⟩
  | none =>
    obtain ⟨hif, hpc, hle⟩ := hend hd
    rw [straight.exLatch_of_none hd]
    refine ⟨nofun, fun _ => ?_⟩
    have hpc1 : s1.pc = s.pc := by
      rcases straight.front with ⟨f, hf, -⟩ | ⟨-, hlt, -⟩ | ⟨-, -, hpc1, -⟩
      · cases hif.symm.trans hf
      · omega
      · exact hpc1
    rcases even.front with ⟨hpc2, -⟩ | ⟨-, -, hlt, -⟩
    · rw [hpc2, hpc1, hpc]
    · rw [hpc1, hicount] at hlt
      omega

/-- After the next cycle the next instruction in program order has one cycle left in EX, or the PC is at its
address. -/
theorem CompletingCycle.next_in_ex {e : ExLatch} {s1 s2 : State} (cyc : CompletingCycle s s1 e)
    (even : EvenCycle s1 s2) (hcycle : s1.cycle ≠ 0) (horder : s.OrderOk) (he : s.exLatch = some e) :
    (∀ e2, s2.exLatch = some e2 → e2.ia = s.nextAddress e ∧ e2.ecnt = 1) ∧
      (s2.exLatch = none → s2.pc = s.nextAddress e) := by
  rw [State.nextAddress]
  rcases cyc.younger with ⟨hnone, straight⟩ | ⟨hx, -, hid, hex, -⟩
  · rw [hnone]
    exact straight.next_in_ex even cyc.icount horder he
  · refine ⟨by simp [even.exLatch, hex], fun _ => ?_⟩
    rw [hx]
    rcases even.front with ⟨hpc, -⟩ | ⟨-, -, -, hcy | hne⟩
    · exact hpc
    · exact absurd hcy hcycle
    · exact absurd hid hne

end Sys2Proof.Machine

/-! ## The statements of the pipeline's rhythm and order (40_pipeline.md R140 to R145) -/

section
open Sys2Proof Sys2Proof.Machine

/-- Settles O51: the first cycle is the Execute stage of the instruction (`CompletingCycle`), the Memory stage of the
second gives its sequential effect, and the instruction then in EX is the next one in order. -/
theorem pipelineRunsInstructionsInProgramOrder : Obligations.PipelineRunsInstructionsInProgramOrder := by
  intro s s1 s2 e hs he hcnt h1 hok1 h2 hok2
  have cyc := hs.completingCycle he hcnt h1 hok1
  have hpar := hs.odd_of_last he hcnt
  have hcy := (cycleEffect_of_runCycle (runCycle_of_step h1 hok1).2).cycle
  have hcycle2 := (runCycle_of_step h2 hok2).2
  have even := evenCycle_of_runCycle ((hs.of_step h1).evenOk (by omega)) hcycle2
  obtain ⟨a, hstep, hregs, hmem, hpc⟩ := cyc.archStep hcycle2
  obtain ⟨-, -, -, horder, -⟩ := hs
  have hnext := cyc.next_in_ex even (by omega) horder he
  exact ⟨a, hstep, hregs, hmem, hpc ▸ hnext⟩

end

/-! ## The places of the younger instructions (40_pipeline.md R141, 43_control_transfer.md R191) -/

namespace Sys2Proof.Machine

variable {s t : State}

/-- Behind an occupied EX, IF is occupied only behind an occupied ID, at the next address but one. -/
theorem State.OrderOk.ifLatch_behind {e : ExLatch} {f : IfLatch} (ho : s.OrderOk) (he : s.exLatch = some e)
    (hf : s.ifLatch = some f) : ∃ d, s.idLatch = some d ∧ d.ia = e.ia + 1 ∧ f.ia = e.ia + 2 := by
  obtain ⟨hex, hid, -⟩ := ho
  obtain ⟨hnext, -, -, hend⟩ := hex e he
  cases hd : s.idLatch with
  | none =>
    obtain ⟨hnone, -⟩ := hend hd
    cases hnone.symm.trans hf
  | some d =>
    obtain ⟨hia, -⟩ := hid d hd
    refine ⟨d, rfl, hnext d hd, ?_⟩
    rw [hia f hf, hnext d hd, BitVec.add_assoc]
    rfl

/-- The PC of a pipeline with one cycle left in EX: three past it, or at the end of the program. -/
theorem State.OrderOk.pc_of_ex {e : ExLatch} (ho : s.OrderOk) (hpar : s.cycle % 2 = 1) (he : s.exLatch = some e) :
    s.pc.toNat = min (e.ia.toNat + 3) s.icount.val := by
  have hcount : s.icount.val ≤ 2048 := Nat.le_of_lt_succ s.icount.isLt
  cases hf : s.ifLatch with
  | some f =>
    obtain ⟨d, -, -, hia⟩ := ho.ifLatch_behind he hf
    obtain ⟨-, -, hif, hexlt, -, hiflt⟩ := ho
    have hlt := hexlt e he
    have hltf := hiflt f hf
    rw [hif f hf]
    rw [hia] at hltf ⊢
    bv_omega
  | none =>
    obtain ⟨hex, hid, -, hexlt, hidlt, -⟩ := ho
    obtain ⟨hnext, -, -, hend⟩ := hex e he
    have hlt := hexlt e he
    cases hd : s.idLatch with
    | none =>
      obtain ⟨-, hpc, hle⟩ := hend hd
      rw [hpc] at hle ⊢
      bv_omega
    | some d =>
      obtain ⟨-, hpc, hle⟩ := hid d hd
      have hle := hle hf hpar
      have hltd := hidlt d hd
      rw [hpc hf] at hle ⊢
      rw [hnext d hd] at hle hltd ⊢
      bv_omega

end Sys2Proof.Machine

/-! ## The statements that follow from the invariant (40_pipeline.md R130, R141 to R145) -/

section
open Sys2Proof Sys2Proof.Machine

/-- Settles O47: the cycle is one that takes a branch (`CompletingCycle.taken`), and program order gives the
addresses. -/
theorem takenBranchDiscardsEveryYoungerInstruction : Obligations.TakenBranchDiscardsEveryYoungerInstruction := by
  intro s t e hs he hcnt h hok hf
  have cyc := hs.completingCycle he hcnt h hok
  obtain ⟨-, hid, hex, hmem, hf1⟩ := cyc.taken hf
  obtain ⟨-, -, -, horder, -⟩ := hs
  refine ⟨?_, fun f hfl => ?_, cyc.ifLatch, hid, hex, hmem, cyc.wbLatch, cyc.regs, cyc.memory, hf1⟩
  · obtain ⟨hnext, -⟩ := horder
    exact (hnext e he).1
  · obtain ⟨-, -, -, hia⟩ := horder.ifLatch_behind he hfl
    exact hia

/-- Settles O48, by where program order puts the PC. -/
theorem pcRunsAheadOfExecute : Obligations.PcRunsAheadOfExecute := by
  intro s e hs he hcnt
  have hpar := hs.odd_of_last he hcnt
  obtain ⟨-, -, -, horder, -⟩ := hs
  exact horder.pc_of_ex hpar he

/-- Settles O40: MEM is occupied after an even number of cycles only, when the counters of ID and EX are fresh. -/
theorem memoryFaultNeverSharesItsCycle : Obligations.MemoryFaultNeverSharesItsCycle := by
  intro s hs hm
  obtain ⟨-, -, hid, hex, -⟩ := hs.evenOk (hs.even_of_memLatch hm)
  refine ⟨fun e he => ?_, fun d hd => ?_⟩
  · rw [hex e he]; decide
  · rw [hid d hd]; decide

/-- Settles O44, by the cycle that does not fault (`runCycle_archOk`) and the one that commits nothing. -/
theorem stepKeepsPcInRange : Obligations.StepKeepsPcInRange := by
  intro s t hs h
  rcases (step_eq_next.1 h).2 with hcycle | ⟨r, -, rfl⟩
  · exact runCycle_archOk hcycle hs
  · exact hs

/-- Settles O35: a cycle that does not fault starts running, and only its drain check changes the status. -/
theorem haltsExactlyWhenDrained : Obligations.HaltsExactlyWhenDrained := by
  intro s t h hok
  obtain ⟨hrun, hcycle⟩ := runCycle_of_step h hok
  rcases (cycleEffect_of_runCycle hcycle).status with ⟨hst, hnot⟩ | ⟨hst, hdrained⟩
  · rw [hst, hrun]
    exact ⟨nofun, fun hdrained => absurd hdrained hnot⟩
  · exact ⟨fun _ => hdrained, fun _ => hst⟩

/-- Settles O46: two cycles that start at an even count count EX down and complete it, and the two after them move the
instruction through MEM and WB. -/
theorem executeTakesTwoCyclesThenMemThenWriteBack : Obligations.ExecuteTakesTwoCyclesThenMemThenWriteBack := by
  intro s s1 s2 s3 s4 e hs he hcnt h1 hok1 h2 hok2 h3 hok3 h4 hok4
  have hpar := hs.even_of_ex_fresh he hcnt
  have hcycle1 := (runCycle_of_step h1 hok1).2
  have hcycle3 := (runCycle_of_step h3 hok3).2
  have effect3 := cycleEffect_of_runCycle hcycle3
  have he1 : s1.exLatch = some ⟨e.word, e.ia, e.ins, 1⟩ := by
    rw [(evenCycle_of_runCycle (hs.evenOk hpar) hcycle1).exLatch, he]
    rfl
  have cyc := (hs.of_step h1).completingCycle he1 rfl h2 hok2
  obtain ⟨mdr, -, hwb⟩ := effect3.wbLatch_of_some _ cyc.memLatch
  have hs2 := (hs.of_step h1).of_step h2
  have hmem3 : s3.memLatch = none :=
    (evenCycle_of_runCycle (hs2.evenOk (hs2.even_of_memLatch (by simp [cyc.memLatch]))) hcycle3).memLatch
  exact ⟨he1, ⟨_, cyc.memLatch, mdr, hwb⟩, hmem3,
    (cycleEffect_of_runCycle (runCycle_of_step h4 hok4).2).wbLatch_of_none hmem3⟩

/-- Settles O45: where the decode counter reaches 0 the count is odd, and Execute empties EX in that cycle before Decode
looks at it. -/
theorem structuralStallNeverOccurs : Obligations.StructuralStallNeverOccurs := by
  refine ⟨fun s s1 s2 s3 d hs _ h1 h2 h3 hd hz => ?_, fun s s1 s2 d hs hd hcnt h1 hok1 h2 hok2 => ?_⟩
  · have back := backEffect_of_stages h1 h2
    have hd2 : s.idLatch = some d := by
      rcases executeStage_front h3 with front | ⟨a, front⟩
      · rw [← back.idLatch, ← front.idLatch, hd]
      · cases front.idLatch.symm.trans hd
    obtain ⟨-, -, hex, -⟩ := hs.oddOk (hs.odd_of_id_last hd2 (countDown_eq_zero_iff.1 hz))
    exact (executeStage_of_last (by rwa [back.exLatch]) h3).1
  · have hpar := hs.even_of_id_fresh hd hcnt
    have hcycle1 := (runCycle_of_step h1 hok1).2
    have hcycle2 := (runCycle_of_step h2 hok2).2
    have hd1 : s1.idLatch = some ⟨d.word, d.ia, 1⟩ := by
      rw [(evenCycle_of_runCycle (hs.evenOk hpar) hcycle1).idLatch, hd]
      rfl
    refine ⟨hd1, fun hf => ?_⟩
    have hs1 := hs.of_step h1
    have hpar1 : s1.cycle % 2 = 1 := by
      have := (cycleEffect_of_runCycle hcycle1).cycle
      omega
    rcases (oddCycle_of_runCycle hpar1 (hs1.oddOk hpar1) hcycle2).younger with ⟨-, -, hf1⟩ | straight
    · cases hf.symm.trans hf1
    · obtain ⟨ins, hex⟩ := straight.exLatch_of_some _ hd1
      obtain ⟨-, ⟨hdec, -⟩, -⟩ := hs1.of_step h2
      exact ⟨ins, (hdec _ hex).1, hex⟩

end

/-! ## Every running state has an outcome (40_pipeline.md R130 to R133; 60_exceptions.md R217) -/

namespace Sys2Proof.Machine

variable {i : Instr} {s t : State}

/-! ### No stage refuses what its latch carries (R30, R106, R112) -/

/-- The table of R105 writes an ALU result only where one is carried, and so a loaded word. -/
theorem carriesAlu_of_wbAction {r : RegIdx} (h : wbAction i = .writeAlu r) : carriesAlu i = true := by
  cases i
  case jeq | jmp => cases h
  all_goals rfl

theorem carriesMdr_of_wbAction {r : RegIdx} (h : wbAction i = .writeMdr r) : carriesMdr i = true := by
  cases i
  case movr => rfl
  all_goals cases h

/-- Write-back always answers a next state, as the latch carries the field its row of the table names. -/
theorem writeBackStage_answers
    (h : ∀ b ∈ s.wbLatch, b.alu.isSome = carriesAlu b.ins ∧ b.mdr.isSome = carriesMdr b.ins) :
    ∃ t, writeBackStage s = .next t := by
  cases hb : s.wbLatch with
  | none => exact ⟨_, writeBackStage_of_none hb⟩
  | some b =>
    obtain ⟨halu, hmdr⟩ := h b hb
    rw [writeBackStage_of_some hb]
    cases hw : wbAction b.ins with
    | writeAlu r =>
      obtain ⟨v, hv⟩ := Option.isSome_iff_exists.1 (halu.trans (carriesAlu_of_wbAction hw))
      exact ⟨_, State.wbAlu_eq_next.2 ⟨v, hv, rfl⟩⟩
    | writeMdr r =>
      obtain ⟨v, hv⟩ := Option.isSome_iff_exists.1 (hmdr.trans (carriesMdr_of_wbAction hw))
      exact ⟨_, State.wbMdr_eq_next.2 ⟨v, hv, rfl⟩⟩
    | noWrite => exact ⟨_, rfl⟩

/-- Memory refuses nothing, as a load or a store carries its address. -/
theorem memoryStage_ne_refused (h : ∀ m ∈ s.memLatch, m.alu.isSome = carriesAlu m.ins) (q : Refusal) :
    memoryStage s ≠ .refused q := by
  cases hm : s.memLatch with
  | none => rw [memoryStage_of_none hm]; exact nofun
  | some m =>
    have halu := h m hm
    cases hi : m.ins
    case movr r1 r2 imm =>
      rw [hi] at halu
      obtain ⟨a, ha⟩ := Option.isSome_iff_exists.1 halu
      rw [memoryStage_movr hm hi ha]
      split <;> exact nofun
    case movm r1 r2 imm =>
      rw [hi] at halu
      obtain ⟨a, ha⟩ := Option.isSome_iff_exists.1 halu
      rw [memoryStage_movm hm hi ha]
      split <;> exact nofun
    all_goals
      rw [memoryStage_pass hm (by rw [hi]; rfl)]
      exact nofun

theorem State.finishTaken_ne_refused (s : State) (e : ExLatch) (a : Word) (q : Refusal) :
    s.finishTaken e a ≠ .refused q := by
  unfold State.finishTaken
  split <;> exact nofun

/-- Completing Execute reads no latch field that may be missing. -/
theorem exec_execute_ne_refused {e : ExLatch} (ha : s.acting = .execute) (he : s.exLatch = some e) (q : Refusal) :
    exec i s ≠ .refused q := by
  cases i
  case jeq r1 r2 imm =>
    rw [exec, execJeq, State.inStage_execute ha he]
    split
    · exact s.finishTaken_ne_refused e _ q
    · exact nofun
  case jmp target =>
    rw [exec, execJmp, State.inStage_execute ha he]
    exact s.finishTaken_ne_refused e _ q
  all_goals
    intro h
    cases (State.inStage_execute ha he).symm.trans h

theorem executeStage_ne_refused (s : State) (q : Refusal) : executeStage s ≠ .refused q := by
  cases he : s.exLatch with
  | none => rw [executeStage_of_none he]; exact nofun
  | some e =>
    simp only [executeStage, he]
    split
    · exact exec_execute_ne_refused rfl rfl q
    · exact nofun

theorem decodeStage_ne_refused (s : State) (q : Refusal) : decodeStage s ≠ .refused q := by
  unfold decodeStage
  split
  · exact nofun
  · split
    · split <;> exact nofun
    · exact nofun

theorem andThen_ne_refused {o : Out} {f : State → Out} {q : Refusal} (ho : o ≠ .refused q)
    (hf : ∀ u, o = .next u → f u ≠ .refused q) : andThen o f ≠ .refused q := by
  cases o with
  | next u => exact hf u rfl
  | fault r => exact nofun
  | refused p => exact ho

/-- A cycle refuses nothing while the latches carry the fields of R30. -/
theorem runCycle_ne_refused (hs : s.LatchOk) (q : Refusal) : runCycle s ≠ .refused q := by
  obtain ⟨-, hmem, hwb⟩ := hs
  obtain ⟨s1, h1⟩ := writeBackStage_answers (s := s.beginCycle) fun b hb => (hwb b hb).2
  have hmem1 : ∀ m ∈ s1.memLatch, m.alu.isSome = carriesAlu m.ins := by
    rw [writeBackStage_next_eq h1]
    exact fun m hm => (hmem m hm).2
  rw [runCycle, h1, andThen_next]
  exact andThen_ne_refused (memoryStage_ne_refused hmem1 q) fun s2 _ =>
    andThen_ne_refused (executeStage_ne_refused s2 q) fun s3 _ =>
    andThen_ne_refused (decodeStage_ne_refused s3 q) fun s4 _ => nofun

/-- The two outcomes of a cycle from a running state (R133). -/
theorem step_answers (hrun : s.status = .running) (hs : s.LatchOk) :
    (∃ t, runCycle s = .next t ∧ step s = .next t) ∨
      ∃ r, runCycle s = .fault (.raised r) ∧ step s = .next (s.enterFault r) := by
  cases hc : runCycle s with
  | next t => exact .inl ⟨t, rfl, step_eq_next.2 ⟨hrun, .inl hc⟩⟩
  | fault r =>
    obtain ⟨q, rfl, -⟩ := runCycle_fault hc
    exact .inr ⟨q, rfl, step_eq_next.2 ⟨hrun, .inr ⟨q, hc, rfl⟩⟩⟩
  | refused q => exact absurd hc (runCycle_ne_refused hs q)

/-- From a state of the invariant that is running, a step answers a next state of the invariant. -/
theorem State.Inv.exists_step (hs : s.Inv) (hrun : s.status = .running) : ∃ t, step s = .next t ∧ t.Inv := by
  have ⟨_, hlatch, _⟩ := hs
  rcases step_answers hrun hlatch with ⟨t, -, h⟩ | ⟨r, -, h⟩
  · exact ⟨t, h, hs.of_step h⟩
  · exact ⟨_, h, hs.of_step h⟩

/-! ### Runs of several cycles and the driver (R102, R132, R217) -/

theorem steps_succ_of_next (n : Nat) (h : step s = .next t) : steps (n + 1) s = steps n t := by
  rw [steps, h, andThen_next]

/-- From a state that is not running no further cycle is made. -/
theorem steps_eq_next_of_ended {n : Nat} (hs : s.status ≠ .running) : steps n s = .next t ↔ n = 0 ∧ t = s := by
  cases n with
  | zero => simp [steps, eq_comm]
  | succ n =>
    refine ⟨fun h => ?_, fun h => absurd h.1 n.succ_ne_zero⟩
    obtain ⟨u, hu, -⟩ := andThen_eq_next.1 h
    exact absurd (step_eq_next.1 hu).1 hs

/-- `t` is reached from `s` within `n` cycles. -/
def ReachedWithin (n : Nat) (s t : State) : Prop := ∃ k ≤ n, steps k s = .next t

theorem reachedWithin_of_ended {n : Nat} (hs : s.status ≠ .running) : ReachedWithin n s t ↔ t = s := by
  simp [ReachedWithin, steps_eq_next_of_ended hs]

theorem reachedWithin_zero : ReachedWithin 0 s t ↔ t = s := by
  simp [ReachedWithin, steps, eq_comm]

theorem reachedWithin_succ {n : Nat} :
    ReachedWithin (n + 1) s t ↔ t = s ∨ ∃ u, step s = .next u ∧ ReachedWithin n u t := by
  constructor
  · rintro ⟨k, hk, h⟩
    cases k with
    | zero => exact .inl (Host.Outcome.next.inj h).symm
    | succ k =>
      obtain ⟨u, hu, h⟩ := andThen_eq_next.1 h
      exact .inr ⟨u, hu, k, by omega, h⟩
  · rintro (rfl | ⟨u, hu, k, hk, h⟩)
    · exact ⟨0, by omega, rfl⟩
    · exact ⟨k + 1, by omega, by rw [steps_succ_of_next k hu, h]⟩

/-- What the driver reports when it ends in `t`, by the status alone. -/
def RunResult.ofState (t : State) : RunResult :=
  match t.status with
  | .halted => .halted t
  | .faulted r => .faulted r t
  | .running => .outOfFuel t

theorem RunResult.ofState_eq_halted_iff {u : State} : .halted t = RunResult.ofState u ↔ u = t ∧ t.status = .halted := by
  constructor
  · intro h
    unfold RunResult.ofState at h
    split at h <;> cases h
    exact ⟨rfl, ‹_›⟩
  · rintro ⟨rfl, h⟩
    simp only [RunResult.ofState, h]

theorem RunResult.ofState_eq_faulted_iff {u : State} {r : FaultRecord} :
    .faulted r t = RunResult.ofState u ↔ u = t ∧ t.status = .faulted r := by
  constructor
  · intro h
    unfold RunResult.ofState at h
    split at h <;> cases h
    exact ⟨rfl, ‹_›⟩
  · rintro ⟨rfl, h⟩
    simp only [RunResult.ofState, h]

theorem RunResult.ofState_eq_outOfFuel_iff {u : State} :
    .outOfFuel t = RunResult.ofState u ↔ u = t ∧ t.status = .running := by
  constructor
  · intro h
    unfold RunResult.ofState at h
    split at h <;> cases h
    exact ⟨rfl, ‹_›⟩
  · rintro ⟨rfl, h⟩
    simp only [RunResult.ofState, h]

theorem drive_zero (s : State) : drive 0 s = .ofState s := by
  cases hs : s.status <;> simp only [drive, RunResult.ofState, hs]

theorem drive_of_ended {n : Nat} (hs : s.status ≠ .running) : drive n s = .ofState s := by
  cases n with
  | zero => exact drive_zero s
  | succ n => cases h : s.status <;> simp_all [drive, RunResult.ofState]

/-- From a running state with a cycle left the driver goes on from the next state, or stops where there is none. -/
theorem drive_succ_of_running {n : Nat} {r : RunResult} (hs : s.status = .running) :
    drive (n + 1) s = r ↔
      (∃ u, step s = .next u ∧ drive n u = r) ∨ (∀ u, step s ≠ .next u) ∧ .stopped s = r := by
  cases hstep : step s <;> simp [drive, hs, hstep]

/-- The driver reports a run cut short exactly where all its cycles are made and lead to a running state. -/
theorem drive_eq_outOfFuel_iff {n : Nat} :
    drive n s = .outOfFuel t ↔ steps n s = .next t ∧ t.status = .running := by
  induction n generalizing s with
  | zero => simp [drive_zero, steps, eq_comm (a := RunResult.ofState s), RunResult.ofState_eq_outOfFuel_iff]
  | succ n ih =>
    by_cases hs : s.status = .running
    · simp [drive_succ_of_running hs, ih, steps, andThen_eq_next, ← exists_and_right, and_assoc]
    · rw [drive_of_ended hs, steps_eq_next_of_ended hs, eq_comm, RunResult.ofState_eq_outOfFuel_iff]
      exact ⟨fun ⟨h, ht⟩ => absurd (h ▸ ht) hs, fun ⟨⟨h, _⟩, _⟩ => absurd h n.succ_ne_zero⟩

/-- Any other report but a stop is that of a state that the machine's own cycles reach within the cap. -/
theorem drive_eq_iff_reached {n : Nat} {r : RunResult} (hfuel : ∀ u, r ≠ .outOfFuel u) (hstop : ∀ u, r ≠ .stopped u) :
    drive n s = r ↔ ∃ t, ReachedWithin n s t ∧ r = .ofState t := by
  induction n generalizing s with
  | zero => simp [drive_zero, reachedWithin_zero, eq_comm]
  | succ n ih =>
    by_cases hs : s.status = .running
    · have hself : r ≠ .ofState s := fun h => hfuel s (h.trans (by simp only [RunResult.ofState, hs]))
      have hnostop : ¬((∀ u, step s ≠ .next u) ∧ .stopped s = r) := fun h => hstop s h.2.symm
      rw [drive_succ_of_running hs, or_iff_left hnostop]
      constructor
      · rintro ⟨u, hu, hdrive⟩
        obtain ⟨t, hreach, ht⟩ := ih.1 hdrive
        exact ⟨t, reachedWithin_succ.2 (.inr ⟨u, hu, hreach⟩), ht⟩
      · rintro ⟨t, hreach, ht⟩
        rcases reachedWithin_succ.1 hreach with rfl | ⟨u, hu, hreach⟩
        · exact absurd ht hself
        · exact ⟨u, hu, ih.2 ⟨t, hreach, ht⟩⟩
    · simp [drive_of_ended hs, reachedWithin_of_ended hs, eq_comm]

theorem reachedWithin_and_iff {n : Nat} {p : State → Prop} :
    ReachedWithin n s t ∧ p t ↔ ∃ k ≤ n, steps k s = .next t ∧ p t := by
  constructor
  · rintro ⟨⟨k, hk, h⟩, hp⟩
    exact ⟨k, hk, h, hp⟩
  · rintro ⟨k, hk, h, hp⟩
    exact ⟨⟨k, hk, h⟩, hp⟩

/-- From a state of the invariant every running state of the run has a next state, so the driver never stops. -/
theorem State.Inv.drive_ne_stopped (n : Nat) (hs : s.Inv) (t : State) : drive n s ≠ .stopped t := by
  induction n generalizing s with
  | zero =>
    rw [drive_zero, RunResult.ofState]
    split <;> exact nofun
  | succ n ih =>
    by_cases hrun : s.status = .running
    · obtain ⟨u, hu, hinv⟩ := hs.exists_step hrun
      rw [drive_succ_of_next hrun hu]
      exact ih hinv
    · rw [drive_of_ended hrun, RunResult.ofState]
      split <;> exact nofun

end Sys2Proof.Machine

/-! ## The statements of the outcomes of a cycle and of a run (40_pipeline.md R132, R133; 60_exceptions.md R217) -/

section
open Sys2Proof Sys2Proof.Machine

/-- Settles O37: no stage refuses what such a latch carries (`runCycle_ne_refused`), and every fault of a cycle is one
that a stage raised. -/
theorem runningStatesAlwaysStep : Obligations.RunningStatesAlwaysStep :=
  fun _ hrun hs => step_answers hrun hs

/-- Settles O55, by induction on the cap (`drive_eq_outOfFuel_iff`, `drive_eq_iff_reached`). -/
theorem cutShortRunsAreStillRunning : Obligations.CutShortRunsAreStillRunning := by
  refine ⟨fun n s t => ⟨drive_eq_outOfFuel_iff, ?_, fun r => ?_⟩, fun n s t hs => hs.drive_ne_stopped n t⟩
  · rw [drive_eq_iff_reached (by simp) (by simp), ← reachedWithin_and_iff (p := fun t => t.status = .halted)]
    simp [RunResult.ofState_eq_halted_iff]
  · rw [drive_eq_iff_reached (by simp) (by simp), ← reachedWithin_and_iff (p := fun t => t.status = .faulted r)]
    simp [RunResult.ofState_eq_faulted_iff]

end

/-! ## The cycles after a taken branch (40_pipeline.md R115, R121, R144; 43_control_transfer.md R199) -/

namespace Sys2Proof.Machine

variable {s t : State}

/-! ### Cycles in which nothing can fault and no register or memory word changes -/

/-- No access in MEM, no write in WB, no instruction that completes Execute, and no word that Decode would reject. -/
structure State.Calm (s : State) : Prop where
  wbLatch : ∀ b ∈ s.wbLatch, wbAction b.ins = .noWrite
  memLatch : ∀ m ∈ s.memLatch, accessesMemory m.ins = false
  exLatch : ∀ e ∈ s.exLatch, e.ecnt = 2
  idLatch : ∀ d ∈ s.idLatch, d.dcnt = 2 ∨ ∃ i, decode d.word = .ok i

/-- A calm Execute stage only counts. -/
theorem executeStage_of_calm (h : ∀ e ∈ s.exLatch, e.ecnt = 2) :
    ∃ t, executeStage s = .next t ∧ t.idLatch = s.idLatch := by
  cases he : s.exLatch with
  | none => exact ⟨_, executeStage_of_none he, rfl⟩
  | some e => exact ⟨_, executeStage_of_two he (h e he), rfl⟩

theorem memoryStage_of_calm (h : ∀ m ∈ s.memLatch, accessesMemory m.ins = false) :
    ∃ t, memoryStage s = .next t := by
  cases hm : s.memLatch with
  | none => exact ⟨_, memoryStage_of_none hm⟩
  | some m => exact ⟨_, memoryStage_pass hm (h m hm)⟩

/-- A word that decodes, or need not be decoded yet, passes Decode. -/
theorem decodeStage_of_calm (h : ∀ d ∈ s.idLatch, d.dcnt = 2 ∨ ∃ i, decode d.word = .ok i) :
    ∃ t, decodeStage s = .next t := by
  cases hd : s.idLatch with
  | none => exact ⟨_, decodeStage_of_none hd⟩
  | some d =>
    by_cases hwait : d.dcnt = 2 ∨ s.exLatch ≠ none
    · exact ⟨_, decodeStage_of_wait hd hwait⟩
    · obtain ⟨hcnt, hex⟩ := not_or.1 hwait
      obtain ⟨i, hi⟩ := (h d hd).resolve_left hcnt
      exact ⟨_, decodeStage_of_ok hd hcnt (not_not.1 hex) hi⟩

/-- A calm cycle does not fault. -/
theorem State.Calm.runCycle (hcalm : s.Calm) (hs : s.LatchOk) : ∃ t, runCycle s = .next t := by
  obtain ⟨-, -, hwb⟩ := hs
  obtain ⟨s1, h1⟩ := writeBackStage_answers (s := s.beginCycle) fun b hb => (hwb b hb).2
  have hs1 := writeBackStage_next_eq h1
  obtain ⟨s2, h2⟩ := memoryStage_of_calm (s := s1) (by rw [hs1]; exact hcalm.memLatch)
  have back := backEffect_of_stages h1 h2
  obtain ⟨s3, h3, hid3⟩ := executeStage_of_calm (s := s2) (by rw [back.exLatch]; exact hcalm.exLatch)
  obtain ⟨s4, h4⟩ := decodeStage_of_calm (s := s3) (by rw [hid3, back.idLatch]; exact hcalm.idLatch)
  exact ⟨_, runCycle_eq_next.2 ⟨s1, s2, s3, s4, h1, h2, h3, h4, rfl⟩⟩

/-- What a calm step leaves: the next cycle, with the registers and the memory as they were. -/
structure CalmStep (s t : State) : Prop where
  step : step s = .next t
  runCycle : runCycle s = .next t
  inv : t.Inv
  regs : t.regs = s.regs
  memory : t.memory = s.memory
  icount : t.icount = s.icount
  cycle : t.cycle = s.cycle + 1
  running : ¬t.drained → t.status = .running
  halted : t.drained → t.status = .halted
  wbLatch : s.memLatch = none → t.wbLatch = none

theorem State.Calm.exists_step (hcalm : s.Calm) (hs : s.Inv) (hrun : s.status = .running) : ∃ t, CalmStep s t := by
  have ⟨_, hlatch, _⟩ := hs
  obtain ⟨t, hcycle⟩ := hcalm.runCycle hlatch
  have effect := cycleEffect_of_runCycle hcycle
  have hstep := step_eq_next.2 ⟨hrun, .inl hcycle⟩
  refine ⟨t, hstep, hcycle, hs.of_step hstep, effect.regs.trans (State.settledRegs_of_noWrite hcalm.wbLatch),
    runCycle_memory hcycle hcalm.memLatch, effect.icount, effect.cycle, fun hnot => ?_, fun hdrained => ?_,
    effect.wbLatch_of_none⟩
  · rcases effect.status with ⟨hst, -⟩ | ⟨-, hdrained⟩
    · exact hst.trans hrun
    · exact absurd hdrained hnot
  · rcases effect.status with ⟨-, hnot⟩ | ⟨hst, -⟩
    · exact absurd hdrained hnot
    · exact hst

theorem CalmStep.evenCycle (calm : CalmStep s t) (hs : s.Inv) (hpar : s.cycle % 2 = 0) : EvenCycle s t :=
  evenCycle_of_runCycle (hs.evenOk hpar) calm.runCycle

/-- With EX empty no branch is taken. -/
theorem straightCycle_of_empty_ex (hpar : s.cycle % 2 = 1) (hodd : s.OddOk) (he : s.exLatch = none)
    (h : runCycle s = .next t) : StraightCycle s t := by
  rcases (oddCycle_of_runCycle hpar hodd h).younger with ⟨-, -, hf⟩ | straight
  · obtain ⟨-, -, -, hsup, -⟩ := hodd
    obtain ⟨s2, s3, s4, back, h3, h4, rfl⟩ := runCycle_next h
    obtain ⟨-, -, -, -, hsup4⟩ := decodeStage_frame h4
    rw [executeStage_of_none (back.exLatch.trans he)] at h3
    cases h3
    rw [drainCheck_fsup, transferStage_fsup, fetchStage_fsup, hsup4, State.actAt_fsup, back.fsup, hsup] at hf
    cases hf
  · exact straight

theorem CalmStep.straightCycle (calm : CalmStep s t) (hs : s.Inv) (hpar : s.cycle % 2 = 1) (he : s.exLatch = none) :
    StraightCycle s t :=
  straightCycle_of_empty_ex hpar (hs.oddOk hpar) he calm.runCycle

/-! ### Right after the branch -/

/-- The pipeline right after a taken branch: the branch alone, in MEM, and one more fetch suppressed. -/
structure State.Redirected (s : State) : Prop where
  inv : s.Inv
  running : s.status = .running
  even : s.cycle % 2 = 0
  begun : s.cycle ≠ 0
  fsup : s.fsup = 1
  branch : ∃ m, s.memLatch = some m ∧ carriesAlu m.ins = false
  idLatch : s.idLatch = none
  exLatch : s.exLatch = none

theorem CompletingCycle.redirected {e : ExLatch} (cyc : CompletingCycle s t e) (hs : s.Inv)
    (hpar : s.cycle % 2 = 1) (hstep : step s = .next t) (hok : t.notFaulted) (hf : t.fsup ≠ 0) : t.Redirected := by
  obtain ⟨hx, hid, hex, hmem, hf1⟩ := cyc.taken hf
  obtain ⟨hrun, hcycle⟩ := runCycle_of_step hstep hok
  have effect := cycleEffect_of_runCycle hcycle
  have hcy := effect.cycle
  have hstatus : t.status = .running := by
    rcases effect.status with ⟨hst, -⟩ | ⟨-, -, -, -, hnone, -⟩
    · exact hst.trans hrun
    · cases hmem.symm.trans hnone
  exact { inv := hs.of_step hstep, running := hstatus, even := by omega, begun := by omega, fsup := hf1,
          branch := ⟨_, hmem, carriesAlu_of_branchTarget hx⟩, idLatch := hid, exLatch := hex }

/-- A branch writes no register (R105). -/
theorem wbAction_of_branch {i : Instr} (h : carriesAlu i = false) : wbAction i = .noWrite := by
  cases i
  case jeq | jmp => rfl
  all_goals cases h

/-- One cycle later the branch is in WB, alone, and the fetch at the target may begin. -/
structure State.Refilling (s : State) : Prop where
  inv : s.Inv
  running : s.status = .running
  odd : s.cycle % 2 = 1
  ifLatch : s.ifLatch = none
  idLatch : s.idLatch = none
  exLatch : s.exLatch = none
  calm : s.Calm

theorem State.Redirected.exists_step (hs : s.Redirected) :
    ∃ t, CalmStep s t ∧ t.Refilling ∧ t.pc = s.pc := by
  obtain ⟨m, hm, hbr⟩ := hs.branch
  obtain ⟨-, hwb, -⟩ := hs.inv.evenOk hs.even
  have hcalm : s.Calm := {
    wbLatch := by simp [hwb]
    memLatch := fun m' hm' => by
      cases hm.symm.trans hm'
      exact accessesMemory_of_carriesAlu hbr
    exLatch := by simp [hs.exLatch]
    idLatch := by simp [hs.idLatch] }
  obtain ⟨t, calm⟩ := hcalm.exists_step hs.inv hs.running
  have even := calm.evenCycle hs.inv hs.even
  have hidT : t.idLatch = none := by rw [even.idLatch, hs.idLatch]; rfl
  have hexT : t.exLatch = none := by rw [even.exLatch, hs.exLatch]; rfl
  obtain ⟨mdr, -, hwbT⟩ := (cycleEffect_of_runCycle calm.runCycle).wbLatch_of_some m hm
  have hfront : t.pc = s.pc ∧ t.ifLatch = none := by
    rcases even.front with ⟨hpc, hif, -⟩ | ⟨-, -, -, hcy | hid⟩
    · exact ⟨hpc, hif⟩
    · exact absurd hcy hs.begun
    · exact absurd hs.idLatch hid
  have hrunT : t.status = .running := calm.running fun ⟨_, _, _, _, hnone, _⟩ => by cases hwbT.symm.trans hnone
  have hcy := calm.cycle
  have hpar := hs.even
  refine ⟨t, calm, ⟨calm.inv, hrunT, by omega, hfront.2, hidT, hexT, ?_⟩, hfront.1⟩
  exact {
    wbLatch := by
      rw [hwbT]
      rintro _ ⟨⟩
      exact wbAction_of_branch hbr
    memLatch := by simp [even.memLatch]
    exLatch := by simp [hexT]
    idLatch := by simp [hidT] }

/-- The next cycle empties WB, and fetches the word at the PC straight into ID, or finds the program ended. -/
theorem State.Refilling.exists_step (hs : s.Refilling) :
    ∃ t, CalmStep s t ∧ t.ifLatch = none ∧ t.exLatch = none ∧ t.memLatch = none ∧ t.wbLatch = none ∧ t.fsup = 0 ∧
      (s.pc.toNat < s.icount.val → t.idLatch = some ⟨t.memory.read s.pc.toNat, s.pc, 2⟩) ∧
      (s.icount.val ≤ s.pc.toNat → t.idLatch = none ∧ t.pc = s.pc) := by
  obtain ⟨t, calm⟩ := hs.calm.exists_step hs.inv hs.running
  have hodd := hs.inv.oddOk hs.odd
  have cyc := oddCycle_of_runCycle hs.odd hodd calm.runCycle
  have straight := calm.straightCycle hs.inv hs.odd hs.exLatch
  refine ⟨t, calm, cyc.ifLatch, straight.exLatch_of_none hs.idLatch, cyc.memLatch_of_none hs.exLatch,
    calm.wbLatch hodd.1, straight.fsup, fun hlt => ?_, fun hle => ?_⟩
  · have hok : t.notFaulted := (cycleEffect_of_runCycle calm.runCycle).notFaulted hs.running
    rcases straight.front with ⟨f, hf, -⟩ | ⟨-, -, -, w, hid⟩ | ⟨-, hle, -⟩
    · cases hs.ifLatch.symm.trans hf
    · rcases (fetchSeesTheStoreOfItsCycle s t calm.step hok).2 _ hid with ⟨d, hd, -⟩ | ⟨f, hf, -⟩ | ⟨-, hw⟩
      · cases hs.idLatch.symm.trans hd
      · cases hs.ifLatch.symm.trans hf
      · rw [hid, ← hw]
    · omega
  · rcases straight.front with ⟨f, hf, -⟩ | ⟨-, hlt, -⟩ | ⟨-, -, hpc, hid⟩
    · cases hs.ifLatch.symm.trans hf
    · omega
    · exact ⟨hid, hpc⟩

/-! ### A word alone in ID reaches Execute -/

section
variable {d : IdLatch} {e : ExLatch} {i : Instr} (hs : s.Inv) (hrun : s.status = .running)
  (hmem : s.memLatch = none) (hwb : s.wbLatch = none)
include hs hrun hmem hwb

/-- Two cycles left in ID become one. -/
theorem State.Inv.step_of_fresh_id (hd : s.idLatch = some d) (hcnt : d.dcnt = 2) (hex : s.exLatch = none) :
    ∃ t, CalmStep s t ∧ t.status = .running ∧ t.idLatch = some ⟨d.word, d.ia, 1⟩ ∧ t.exLatch = none ∧
      t.memLatch = none ∧ t.wbLatch = none := by
  have hcalm : s.Calm := {
    wbLatch := by simp [hwb]
    memLatch := by simp [hmem]
    exLatch := by simp [hex]
    idLatch := fun d' hd' => by cases hd.symm.trans hd'; exact .inl hcnt }
  obtain ⟨t, calm⟩ := hcalm.exists_step hs hrun
  have cyc := calm.evenCycle hs (hs.even_of_id_fresh hd hcnt)
  have hid : t.idLatch = some ⟨d.word, d.ia, 1⟩ := by rw [cyc.idLatch, hd]; rfl
  have hrunT : t.status = .running := calm.running fun ⟨_, hnone, _⟩ => by cases hid.symm.trans hnone
  exact ⟨t, calm, hrunT, hid, by rw [cyc.exLatch, hex]; rfl, cyc.memLatch, calm.wbLatch hmem⟩

/-- A word that decodes enters an empty EX after its last cycle in ID. -/
theorem State.Inv.step_of_last_id (hd : s.idLatch = some d) (hcnt : d.dcnt = 1) (hi : decode d.word = .ok i)
    (hex : s.exLatch = none) :
    ∃ t, CalmStep s t ∧ t.status = .running ∧ t.exLatch = some ⟨d.word, d.ia, i, 2⟩ ∧ t.memLatch = none ∧
      t.wbLatch = none := by
  have hcalm : s.Calm := {
    wbLatch := by simp [hwb]
    memLatch := by simp [hmem]
    exLatch := by simp [hex]
    idLatch := fun d' hd' => by cases hd.symm.trans hd'; exact .inr ⟨i, hi⟩ }
  obtain ⟨t, calm⟩ := hcalm.exists_step hs hrun
  have hpar := hs.odd_of_id_last hd (by rw [hcnt]; decide)
  have hexT : t.exLatch = some ⟨d.word, d.ia, i, 2⟩ := by
    obtain ⟨ins, hexT⟩ := (calm.straightCycle hs hpar hex).exLatch_of_some _ hd
    obtain ⟨-, ⟨hdec, -⟩, -⟩ := calm.inv
    cases hi.symm.trans (hdec _ hexT).1
    exact hexT
  have hrunT : t.status = .running := calm.running fun ⟨_, _, hnone, _⟩ => by cases hexT.symm.trans hnone
  exact ⟨t, calm, hrunT, hexT,
    (oddCycle_of_runCycle hpar (hs.oddOk hpar) calm.runCycle).memLatch_of_none hex, calm.wbLatch hmem⟩

/-- Two cycles left in EX become one. -/
theorem State.Inv.step_of_fresh_ex (he : s.exLatch = some e) (hcnt : e.ecnt = 2) :
    ∃ t, CalmStep s t ∧ t.status = .running ∧ t.exLatch = some ⟨e.word, e.ia, e.ins, 1⟩ ∧ t.memLatch = none ∧
      t.wbLatch = none := by
  have hpar := hs.even_of_ex_fresh he hcnt
  obtain ⟨-, -, hid, hex, -⟩ := hs.evenOk hpar
  have hcalm : s.Calm := {
    wbLatch := by simp [hwb]
    memLatch := by simp [hmem]
    exLatch := hex
    idLatch := fun d hd => .inl (hid d hd) }
  obtain ⟨t, calm⟩ := hcalm.exists_step hs hrun
  have cyc := calm.evenCycle hs hpar
  have hexT : t.exLatch = some ⟨e.word, e.ia, e.ins, 1⟩ := by rw [cyc.exLatch, he]; rfl
  have hrunT : t.status = .running := calm.running fun ⟨_, _, hnone, _⟩ => by cases hexT.symm.trans hnone
  exact ⟨t, calm, hrunT, hexT, cyc.memLatch, calm.wbLatch hmem⟩

/-- A word that decodes, fresh in ID with the stages behind it empty, is in EX with one cycle left three cycles
later (R118, R128). -/
theorem State.Inv.word_reaches_execute (hd : s.idLatch = some d) (hcnt : d.dcnt = 2) (hi : decode d.word = .ok i)
    (hex : s.exLatch = none) :
    ∃ t, steps 3 s = .next t ∧ t.status = .running ∧ t.cycle = s.cycle + 3 ∧
      t.exLatch = some ⟨d.word, d.ia, i, 1⟩ ∧ t.memLatch = none ∧ t.wbLatch = none ∧ t.regs = s.regs ∧
      t.memory = s.memory := by
  obtain ⟨s1, calm1, hrun1, hid1, hex1, hmem1, hwb1⟩ := hs.step_of_fresh_id hrun hmem hwb hd hcnt hex
  obtain ⟨s2, calm2, hrun2, hex2, hmem2, hwb2⟩ := calm1.inv.step_of_last_id hrun1 hmem1 hwb1 hid1 rfl hi hex1
  obtain ⟨s3, calm3, hrun3, hex3, hmem3, hwb3⟩ := calm2.inv.step_of_fresh_ex hrun2 hmem2 hwb2 hex2 rfl
  refine ⟨s3, ?_, hrun3, ?_, hex3, hmem3, hwb3, ?_, ?_⟩
  · rw [steps_succ_of_next 2 calm1.step, steps_succ_of_next 1 calm2.step, steps_succ_of_next 0 calm3.step, steps]
  · rw [calm3.cycle, calm2.cycle, calm1.cycle]
  · rw [calm3.regs, calm2.regs, calm1.regs]
  · rw [calm3.memory, calm2.memory, calm1.memory]

end

end Sys2Proof.Machine

/-! ## The statements of what follows a taken branch (40_pipeline.md R144; 43_control_transfer.md R199) -/

section
open Sys2Proof Sys2Proof.Machine

/-- Settles O49: one cycle with the branch in MEM and one that fetches its target into ID, which is then alone in the
pipeline (`State.Inv.word_reaches_execute`). -/
theorem branchTargetCompletesSixCyclesLater : Obligations.BranchTargetCompletesSixCyclesLater := by
  intro s t e i hs he hcnt hstep hok hf hlt hi
  have hred := (hs.completingCycle he hcnt hstep hok).redirected hs (hs.odd_of_last he hcnt) hstep hok hf
  obtain ⟨u1, calm1, hrefill, hpc1⟩ := hred.exists_step
  obtain ⟨u2, calm2, -, hex2, hmem2, hwb2, -, hfetch, -⟩ := hrefill.exists_step
  have hmemory : u2.memory = t.memory := by rw [calm2.memory, calm1.memory]
  have hid2 := hfetch (by rwa [hpc1, calm1.icount])
  rw [hmemory, hpc1] at hid2
  have hrun2 := calm2.running fun ⟨_, hnone, _⟩ => by cases hid2.symm.trans hnone
  obtain ⟨u, hsteps, hrun, hcycle, hex, hmem, hwb, hregs, hmemU⟩ :=
    calm2.inv.word_reaches_execute hrun2 hmem2 hwb2 hid2 rfl hi hex2
  refine ⟨u, ?_, hrun, ?_, hex, hmem, hwb, ?_, hmemU.trans hmemory⟩
  · rw [steps_succ_of_next 4 calm1.step, steps_succ_of_next 3 calm2.step, hsteps]
  · rw [hcycle, calm2.cycle, calm1.cycle]
  · rw [hregs, calm2.regs, calm1.regs]

/-- Settles O50: one cycle with the branch in MEM and one that finds nothing to fetch and empties WB, which drains the
pipeline. -/
theorem branchOutOfTheProgramHalts : Obligations.BranchOutOfTheProgramHalts := by
  intro s t e hs he hcnt hstep hok hf hle
  have hred := (hs.completingCycle he hcnt hstep hok).redirected hs (hs.odd_of_last he hcnt) hstep hok hf
  obtain ⟨u1, calm1, hrefill, hpc1⟩ := hred.exists_step
  obtain ⟨u2, calm2, hif2, hex2, hmem2, hwb2, hf2, -, hended⟩ := hrefill.exists_step
  obtain ⟨hid2, hpc2⟩ := hended (by rwa [hpc1, calm1.icount])
  have hend : u2.icount.val ≤ u2.pc.toNat := by rwa [calm2.icount, calm1.icount, hpc2, hpc1]
  refine ⟨u2, ?_, calm2.halted ⟨hif2, hid2, hex2, hmem2, hwb2, hend, hf2⟩, ?_, hpc2.trans hpc1, ?_, ?_⟩
  · rw [steps_succ_of_next 1 calm1.step, steps_succ_of_next 0 calm2.step, steps]
  · rw [calm2.cycle, calm1.cycle]
  · rw [calm2.regs, calm1.regs]
  · rw [calm2.memory, calm1.memory]

end

/-! ## A word placed to run and a word fetched (40_pipeline.md R121 to R128, R143; assumption 2) -/

namespace Sys2Proof.Machine

variable {s t : State}

/-! ### What `withFetchWord` gives -/

theorem tableWord_toNat (w : Word) : tableWord 32 w.toNat = w := by
  rw [tableWord, Nat.mod_eq_of_lt w.isLt, BitVec.ofNat_toNat, BitVec.setWidth_eq]

/-- A placed word that decodes waits in EX for its last cycle there. -/
theorem withFetchWord_of_ok (s : State) {w : Word} {i : Instr} (hi : decode w = .ok i) :
    s.withFetchWord 32 w.toNat =
      { s.placeWord w with
        exLatch := some ⟨w, s.placeAddress, i, 1⟩, cycle := s.cycle + s.decodeWait + 2 } := by
  rw [State.withFetchWord, tableWord_toNat, State.readyToRun, hi]

/-- Writing back what an address holds leaves a canonical memory as it is. -/
theorem Memory.write_read_self {m : Memory} (h : m.wf) (a : Nat) : m.write a (m.read a) = m := by
  induction m with
  | nil => simp [Memory.write, Memory.read]
  | cons c rest ih =>
    obtain ⟨b, v⟩ := c
    obtain ⟨hlt, -⟩ := List.pairwise_cons.1 h.1
    obtain ⟨-, hv⟩ := h.2 (b, v) List.mem_cons_self
    rcases lt_trichotomy a b with hab | rfl | hba
    · have hzero : Memory.read rest a = 0 :=
        Memory.read_of_forall_lt fun d hd => hab.trans (hlt d hd)
      simp [Memory.write, Memory.read, hab, hab.ne, hzero]
    · simp only [Memory.write, Memory.read, lt_irrefl, if_true, if_false]
      exact if_neg hv
    · simp [Memory.write, Memory.read, hba.not_gt, hba.ne', ih (Memory.wf_tail h)]

/-! ### The cycles of a word alone in the pipeline -/

/-- `s` with these contents of the stages up to EX, at this cycle, as a cycle leaves it. -/
def State.withFront (s : State) (pc : Word) (f : Option IfLatch) (d : Option IdLatch) (e : Option ExLatch)
    (cycle : Nat) : State :=
  { s with pc := pc, ifLatch := f, idLatch := d, exLatch := e, cycle := cycle, acting := .execute }

section
variable (hrun : s.status = .running) (hmem : s.memLatch = none) (hwb : s.wbLatch = none)
include hrun hmem hwb

/-- With MEM and WB empty a step is the work of the other stages. -/
theorem step_of_empty_back {s3 s4 : State} (h3 : executeStage s.beginCycle = .next s3)
    (h4 : decodeStage s3 = .next s4) (ht : transferStage (fetchStage s4) = t) (hnot : ¬t.drained) :
    step s = .next t := by
  refine step_eq_next.2 ⟨hrun, .inl (runCycle_eq_next.2 ⟨_, _, s3, s4, writeBackStage_of_none hwb,
    memoryStage_of_none hmem, h3, h4, ?_⟩)⟩
  rw [ht, drainCheck, if_neg hnot]

end

section
variable (hrun : s.status = .running) (hmem : s.memLatch = none) (hwb : s.wbLatch = none) (hfs : s.fsup = 0)
include hrun hmem hwb hfs

section
variable (hif : s.ifLatch = none) (hid : s.idLatch = none) (hex : s.exLatch = none)
  (hlt : s.pc.toNat < s.icount.val)
include hif hid hex hlt

/-- The fetch of cycle 1 leaves its word in IF (R126). -/
theorem step_fetch_first (hc : s.cycle = 0) :
    step s = .next (s.withFront (s.pc + 1) (some ⟨s.memory.read s.pc.toNat, s.pc⟩) none none (s.cycle + 1)) := by
  refine step_of_empty_back hrun hmem hwb (executeStage_of_none hex) (decodeStage_of_none hid) ?_ nofun
  rw [fetchStage_eq_fetchWord (s := s.beginCycle.actAt .execute) hfs hif hlt,
    transferStage_eq_self (.inr (.inl (by simp [hc]))), State.withFront, ← hid, ← hex]
  rfl

/-- The fetch of a later cycle brings its word to ID (R125). -/
theorem step_fetch_later (hc : s.cycle ≠ 0) :
    step s =
      .next (s.withFront (s.pc + 1) none (some ⟨s.memory.read s.pc.toNat, s.pc, 2⟩) none (s.cycle + 1)) := by
  refine step_of_empty_back hrun hmem hwb (executeStage_of_none hex) (decodeStage_of_none hid) ?_ nofun
  rw [fetchStage_eq_fetchWord (s := s.beginCycle.actAt .execute) hfs hif hlt,
    transferStage_eq_move (s := (s.beginCycle.actAt .execute).fetchWord) rfl
      (Nat.succ_lt_succ (Nat.pos_of_ne_zero hc)) hid, State.withFront, ← hex]
  rfl

end

section
variable {pc : Word} (hend : s.icount.val ≤ pc.toNat) {w ia : Word} {i : Instr} {c : Nat}
include hend

omit hrun hmem hwb in
/-- At the end of the program Fetch leaves such a state as it is. -/
theorem fetchStage_withFront (f : Option IfLatch) (d : Option IdLatch) (e : Option ExLatch) :
    fetchStage (s.withFront pc f d e c) = s.withFront pc f d e c :=
  fetchStage_eq_self hfs (.inr hend)

omit hrun hmem hwb in
/-- With IF empty so does the transfer. -/
theorem transferStage_fetchStage_withFront (d : Option IdLatch) (e : Option ExLatch) :
    transferStage (fetchStage (s.withFront pc none d e c)) = s.withFront pc none d e c := by
  rw [fetchStage_withFront hfs hend]
  exact transferStage_eq_self (.inl rfl)

/-- A word held in IF moves to an empty ID. -/
theorem step_of_word_in_if (hc : c ≠ 0) :
    step (s.withFront pc (some ⟨w, ia⟩) none none c) =
      .next (s.withFront pc none (some ⟨w, ia, 2⟩) none (c + 1)) := by
  refine step_of_empty_back (s4 := s.withFront pc (some ⟨w, ia⟩) none none (c + 1)) hrun hmem hwb
    (executeStage_of_none rfl) (decodeStage_of_none rfl) ?_ nofun
  rw [fetchStage_withFront hfs hend]
  exact transferStage_eq_move (s := s.withFront pc (some ⟨w, ia⟩) none none (c + 1)) rfl
    (Nat.succ_lt_succ (Nat.pos_of_ne_zero hc)) rfl

/-- A word in ID counts its two cycles there. -/
theorem step_of_word_in_id :
    step (s.withFront pc none (some ⟨w, ia, 2⟩) none c) =
      .next (s.withFront pc none (some ⟨w, ia, 1⟩) none (c + 1)) :=
  step_of_empty_back hrun hmem hwb (executeStage_of_none rfl) (decodeStage_of_wait rfl (.inl rfl))
    (transferStage_fetchStage_withFront hfs hend (some ⟨w, ia, 1⟩) none) nofun

/-- Then it is decoded into EX. -/
theorem step_of_word_decoded (hi : decode w = .ok i) :
    step (s.withFront pc none (some ⟨w, ia, 1⟩) none c) =
      .next (s.withFront pc none none (some ⟨w, ia, i, 2⟩) (c + 1)) :=
  step_of_empty_back hrun hmem hwb (executeStage_of_none rfl)
    (decodeStage_of_ok rfl (by decide : (1 : Count) ≠ 2) rfl hi)
    (transferStage_fetchStage_withFront hfs hend none (some ⟨w, ia, i, 2⟩)) nofun

/-- And one cycle of its two in EX passes. -/
theorem step_of_word_in_ex :
    step (s.withFront pc none none (some ⟨w, ia, i, 2⟩) c) =
      .next (s.withFront pc none none (some ⟨w, ia, i, 1⟩) (c + 1)) :=
  step_of_empty_back hrun hmem hwb (executeStage_of_two rfl rfl) (decodeStage_of_none rfl)
    (transferStage_fetchStage_withFront hfs hend none (some ⟨w, ia, i, 1⟩)) nofun

/-- Three cycles after it has entered ID the word has one cycle left in EX. -/
theorem steps_of_word_in_id (hi : decode w = .ok i) :
    steps 3 (s.withFront pc none (some ⟨w, ia, 2⟩) none c) =
      .next (s.withFront pc none none (some ⟨w, ia, i, 1⟩) (c + 3)) := by
  rw [steps_succ_of_next 2 (step_of_word_in_id hrun hmem hwb hfs hend),
    steps_succ_of_next 1 (step_of_word_decoded hrun hmem hwb hfs hend hi),
    steps_succ_of_next 0 (step_of_word_in_ex hrun hmem hwb hfs hend), steps]

end

/-- `withFetchWord`, of the word the memory holds at the PC, is that state. -/
theorem withFetchWord_eq_withFront {i : Instr} (hpc : s.pc.toNat < 2048) (hic : s.icount.val = s.pc.toNat + 1)
    (hwf : s.memory.wf) (hi : decode (s.memory.read s.pc.toNat) = .ok i) :
    s.withFetchWord 32 (s.memory.read s.pc.toNat).toNat =
      s.withFront (s.pc + 1) none none (some ⟨s.memory.read s.pc.toNat, s.pc, i, 1⟩)
        (s.cycle + s.decodeWait + 2) := by
  have hplace : s.placeAddress = s.pc := if_pos (inBounds_iff.2 hpc)
  have hcount : (⟨(s.pc.toNat + 1) % 2049, Nat.mod_lt _ (by decide)⟩ : Fin 2049) = s.icount :=
    Fin.ext (by rw [hic]; exact Nat.mod_eq_of_lt (by omega))
  simp only [withFetchWord_of_ok s hi, State.placeWord, hplace, hcount, Memory.write_read_self hwf]
  rw [State.withFront, hrun, hmem, hwb, hfs]

end

end Sys2Proof.Machine

/-! ## The statements of a placed and of a fetched word (assumption 2) -/

section
open Sys2Proof Sys2Proof.Machine

/-- Settles O32: the placed word is alone in the pipeline with one cycle left in EX, so Write-back and Memory change
nothing and the step runs exec of its record (O31). -/
theorem placedInstructionRunsInTheNextStep : Obligations.PlacedInstructionRunsInTheNextStep := by
  intro s i hwf p e
  have hp : p = _ := withFetchWord_of_ok s (decode_encode hwf)
  have hex : p.exLatch = some ⟨encode i, s.placeAddress, i, 1⟩ := by rw [hp]
  have hmem : p.memLatch = none := by rw [hp]; rfl
  have hwb : p.wbLatch = none := by rw [hp]; rfl
  have hrun : p.status = .running := by rw [hp]; rfl
  exact ⟨hex, stepRunsTheDecodedInstruction.1 p _ _ _ hrun hex rfl (writeBackStage_of_none hwb)
    (memoryStage_of_none hmem)⟩

/-- Settles O33: a fetch, in cycle 1 with one cycle more in IF, then two cycles in ID and one in EX. -/
theorem fetchedWordReachesExecute : Obligations.FetchedWordReachesExecute := by
  intro s i hrun hif hid hex hmem hwb hfs hpc hic hwf hi
  have hlt : s.pc.toNat < s.icount.val := by omega
  have hend : s.icount.val ≤ (s.pc + 1).toNat := by bv_omega
  rw [withFetchWord_eq_withFront hrun hmem hwb hfs hpc hic hwf hi, State.decodeWait]
  by_cases hc : s.cycle = 0
  · rw [if_pos hc, if_pos hc, steps_succ_of_next 4 (step_fetch_first hrun hmem hwb hfs hif hid hex hlt hc),
      steps_succ_of_next 3 (step_of_word_in_if hrun hmem hwb hfs hend (by omega)),
      steps_of_word_in_id hrun hmem hwb hfs hend hi]
  · rw [if_neg hc, if_neg hc, steps_succ_of_next 3 (step_fetch_later hrun hmem hwb hfs hif hid hex hlt hc),
      steps_of_word_in_id hrun hmem hwb hfs hend hi]

end

/-! ## The shape of the ALU instructions (41_integer_alu.md R150 to R159) -/

namespace Sys2Proof

/-- A word with the opcode of an I-format instruction decodes to it, with its 18-bit field sign-extended (R73). -/
theorem decode_append4_of_encode {op : BitVec 4} {r1 r2 : RegIdx} {field : BitVec 18} {i : Instr}
    (hwf : i.wellFormed = immInRange (field.signExtend 32)) (hbits : Machine.definedBits i = BitVec.allOnes 32)
    (henc : encode i = encodeI op r1 r2 (field.signExtend 32)) :
    decode (op ++ regField r1 ++ regField r2 ++ field) = .ok i := by
  refine decode_eq_ok_iff.2 ⟨?_, ?_⟩
  · rw [hwf, immInRange, setWidth_signExtend_imm, beq_iff_eq]
  · rw [henc, encodeI, setWidth_signExtend_imm, hbits]
    exact BitVec.and_allOnes.symm

end Sys2Proof

namespace Sys2Proof.Machine

variable {i : Instr} {r1 : RegIdx}

/-! ### The datapath by the numbers its operands hold (R150, R151) -/

theorem aluAdd_eq_ofNat (x y : Word) : aluAdd x y = BitVec.ofNat 32 (x.toNat + y.toNat) :=
  BitVec.add_def x y

theorem aluSub_eq_ofInt (x y : Word) : aluSub x y = BitVec.ofInt 32 ((x.toNat : Int) - y.toNat) := by
  apply BitVec.eq_of_toInt_eq
  rw [aluSub, BitVec.toInt_sub, BitVec.toInt_ofInt, BitVec.toInt_eq_toNat_bmod, BitVec.toInt_eq_toNat_bmod,
    Int.bmod_sub_bmod, Int.sub_bmod_bmod]

/-! ### Instructions that write their ALU result back (R105, R154) -/

theorem accessesMemory_of_writeAlu (h : wbAction i = .writeAlu r1) : accessesMemory i = false := by
  cases i
  case movr | movm => cases h
  all_goals rfl

theorem branchTarget_of_writeAlu (h : wbAction i = .writeAlu r1) (a : ArchState) : branchTarget i a = none := by
  cases i
  case jeq | jmp => cases h
  all_goals rfl

/-- What an ALU instruction computes is all that tells it from another one: the three stages treat them alike (R154). -/
theorem aluShape_of_aluResult {result : State → Word} (hwb : wbAction i = .writeAlu r1)
    (hres : ∀ s ia, aluResult i (State.archAt s ia) = some (result s)) : AluShape i r1 result := by
  refine fun s => ⟨fun e ha he => ?execute, fun m ha hm => ?memory, fun b v ha hb hv => ?writeBack⟩
  case execute =>
    rw [exec_execute_straight he ha (branchTarget_of_writeAlu hwb _), hres, State.passToMem]
  case memory =>
    rw [exec_memory_pass hm ha (accessesMemory_of_writeAlu hwb), State.memPass, State.passToWb]
  case writeBack =>
    simp only [exec_writeBack ha hb, hwb, State.writeBackAction, State.wbAlu, hv, State.writeReg_eq, State.retire]

end Sys2Proof.Machine

/-! ## The statements of the ALU instructions (41_integer_alu.md) -/

section
open Sys2Proof Sys2Proof.Machine

/-- Settles O6: the sum of the numbers, modulo 2^32, is the datapath's (`aluAdd_eq_ofNat`). -/
theorem addWritesTheSum : Obligations.AddWritesTheSum :=
  fun _ _ _ => ⟨fun _ => decode_eq_ok_iff.2 ⟨rfl, (append5_and_definedR ..).symm⟩,
    aluShape_of_aluResult rfl fun _ _ => congrArg some (aluAdd_eq_ofNat ..)⟩

/-- Settles O7: the difference over the integers, modulo 2^32, is the datapath's (`aluSub_eq_ofInt`). -/
theorem subWritesTheDifference : Obligations.SubWritesTheDifference :=
  fun _ _ _ => ⟨fun _ => decode_eq_ok_iff.2 ⟨rfl, (append5_and_definedR ..).symm⟩,
    aluShape_of_aluResult rfl fun _ _ => congrArg some (aluSub_eq_ofInt ..)⟩

/-- Settles O8: the datapath multiplies the numbers themselves. -/
theorem mulWritesTheLowProduct : Obligations.MulWritesTheLowProduct :=
  fun _ _ _ => ⟨fun _ => decode_eq_ok_iff.2 ⟨rfl, (append5_and_definedR ..).symm⟩,
    aluShape_of_aluResult rfl fun _ _ => rfl⟩

/-- Settles O9, by the shape of the ALU instructions. -/
theorem andWritesTheBitwiseAnd : Obligations.AndWritesTheBitwiseAnd :=
  fun _ _ _ => ⟨fun _ => decode_eq_ok_iff.2 ⟨rfl, (append5_and_definedR ..).symm⟩,
    aluShape_of_aluResult rfl fun _ _ => rfl⟩

/-- Settles O10: the record's immediate is the result, so no register is read. -/
theorem moviWritesTheImmediate : Obligations.MoviWritesTheImmediate :=
  fun _ _ _ => ⟨decode_append4_of_encode rfl rfl rfl, aluShape_of_aluResult rfl fun _ _ => rfl⟩

/-- Settles O11, by the shape of the ALU instructions. -/
theorem xoriWritesTheExclusiveOr : Obligations.XoriWritesTheExclusiveOr :=
  fun _ _ _ => ⟨decode_append4_of_encode rfl rfl rfl, aluShape_of_aluResult rfl fun _ _ => rfl⟩

/-- Settles O12: an S-format word has its undefined bits in its fourth part, and the datapath shifts as R157 says. -/
theorem lslWritesTheLeftShift : Obligations.LslWritesTheLeftShift :=
  fun _ _ _ => ⟨fun _ => decode_eq_ok_iff.2 ⟨rfl, (append5_and_definedS ..).symm⟩,
    aluShape_of_aluResult rfl fun _ _ => rfl⟩

/-- Settles O13: an S-format word has its undefined bits in its fourth part, and the datapath shifts as R158 says. -/
theorem lsrWritesTheRightShift : Obligations.LsrWritesTheRightShift :=
  fun _ _ _ => ⟨fun _ => decode_eq_ok_iff.2 ⟨rfl, (append5_and_definedS ..).symm⟩,
    aluShape_of_aluResult rfl fun _ _ => rfl⟩

end

/-! ## Loads and stores (42_load_store.md R180 to R187) -/

namespace Sys2Proof.Machine

variable {s t : State}

/-! ### The word a store leaves alone (R53) -/

/-- A write changes no other address, in a memory of any form: it adds or drops entries of its own address alone. -/
theorem Memory.read_write_of_ne (m : Memory) {a b : Nat} (hb : b ≠ a) (v : Word) : (m.write a v).read b = m.read b := by
  induction m with
  | nil =>
    rw [Memory.write]
    split <;> simp [Memory.read, hb]
  | cons c rest ih =>
    obtain ⟨k, u⟩ := c
    rw [Memory.write]
    split
    · split <;> simp [Memory.read, hb]
    · split
      · next hak =>
        subst hak
        split <;> simp [Memory.read, hb]
      · simp [Memory.read, ih]

/-! ### An access out of bounds (R52, R53, R201) -/

theorem State.memLoad_of_outOfBounds {m : MemLatch} {a : Word} (hm : m.alu = some a) (ha : 2048 ≤ a.toNat) :
    s.memLoad m = s.raiseMem m a := by
  simp only [State.memLoad, hm, State.memRead_eq_none.2 (inBounds_eq_false_iff.2 ha)]

theorem State.memStore_of_outOfBounds {m : MemLatch} {a : Word} (hm : m.alu = some a) (ha : 2048 ≤ a.toNat)
    (r1 : RegIdx) : s.memStore m r1 = s.raiseMem m a := by
  simp only [State.memStore, hm, State.memWrite_eq_none.2 (inBounds_eq_false_iff.2 ha)]

/-! ### The memory after a cycle (R184 to R186) -/

/-- `t` has the memory of `s`, or that memory after the store of the MOVM in MEM of `s`, its data register read in
`view`, what an instruction at an address sees. -/
def State.KeepsOrStores (s t : State) (view : Word → ArchState) : Prop :=
  t.memory = s.memory ∨
    ∃ m r1 r2 imm a, s.memLatch = some m ∧ m.ins = .movm r1 r2 imm ∧ m.alu = some a ∧ a.toNat < 2048 ∧
      t.memory = s.memory.write a.toNat ((view m.ia).readReg r1)

/-- The Memory stage reads the data register of a store in the working copy it acts on (R185). -/
theorem memoryStage_keepsOrStores (h : memoryStage s = .next t) : s.KeepsOrStores t s.archAt := by
  rcases memoryStage_next h with ⟨-, rfl⟩ | ⟨m, hm, ⟨-, -, rfl⟩ | ⟨-, a, -, -, rfl⟩ |
    ⟨-, r1, r2, imm, a, hi, ha, hin, rfl⟩⟩
  case inr.inr.inr => exact .inr ⟨m, r1, r2, imm, a, hm, hi, ha, inBounds_iff.1 hin, rfl⟩
  all_goals exact .inl rfl

/-- Write-back acts before the Memory stage and no later stage writes memory, so a store sees the settled register
file (R100, R104). -/
theorem runCycle_keepsOrStores (h : runCycle s = .next t) : s.KeepsOrStores t s.archView := by
  obtain ⟨s1, s2, s3, s4, h1, h2, h3, h4, rfl⟩ := runCycle_eq_next.1 h
  obtain ⟨-, hmem, -⟩ := frontStages_frame s4
  rw [State.KeepsOrStores, hmem, (decodeStage_frame h4).1.memory, (executeStage_frame h3).memory]
  obtain rfl := writeBackStage_next_eq h1
  rw [State.beginCycle_settledRegs] at h2
  exact memoryStage_keepsOrStores h2

end Sys2Proof.Machine

/-! ## The statements of the loads and stores (42_load_store.md) -/

section
open Sys2Proof Sys2Proof.Machine

/-- Settles O21: a cycle that does not fault keeps the memory or makes the one store (`runCycle_keepsOrStores`), and a
faulting one commits nothing. -/
theorem memoryChangesOnlyByMovm : Obligations.MemoryChangesOnlyByMovm := by
  intro s t h
  rcases (step_eq_next.1 h).2 with hcycle | ⟨r, -, rfl⟩
  · rcases runCycle_keepsOrStores hcycle with hkept | ⟨m, r1, r2, imm, a, hm, hi, ha, hlt, hstore⟩
    · exact .inl hkept
    · refine .inr ⟨m, r1, r2, imm, a, hm, hi, ha, hlt, hstore, fun b hb => ?_⟩
      rw [hstore, Memory.read_write_of_ne _ hb]
  · exact .inl rfl

/-- Settles O14: EX hands on the address, MEM loads or raises, and WB does the row of MOVR in the table of R105. -/
theorem movrLoadsTheWord : Obligations.MovrLoadsTheWord := by
  refine fun r1 r2 field => ⟨decode_append4_of_encode rfl rfl rfl, fun s => ⟨fun e hs he => ?execute,
    fun m a hs hm ha hlt => ?load, fun m a hs hm hi ha hge => ?fault, fun b v hs hb hv => ?writeBack⟩⟩
  case execute => exact exec_execute_straight he hs rfl
  case load =>
    rw [exec_memory_movr hm hs, State.memLoad_eq_next.2 ⟨a, ha, inBounds_iff.2 hlt, rfl⟩, State.passToWb, ha]
  case fault =>
    rw [exec_memory_movr hm hs, State.memLoad_of_outOfBounds ha hge, State.raiseMem, hi]
    rfl
  case writeBack =>
    rw [exec_writeBack hs hb, wbAction, State.writeBackAction, State.wbMdr_eq_next.2 ⟨v, hv, rfl⟩, State.writeReg_eq,
      State.retire]

/-- Settles O15: EX hands on the address, MEM stores or raises, and WB does the row of MOVM in the table of R105, which
writes no register. -/
theorem movmStoresTheWord : Obligations.MovmStoresTheWord := by
  refine fun r1 r2 field => ⟨decode_append4_of_encode rfl rfl rfl, fun s => ⟨fun e hs he => ?execute,
    fun m a hs hm ha hlt hwf => ?store, fun m a hs hm hi ha hge => ?fault, fun b hs hb => exec_writeBack hs hb⟩⟩
  case execute => exact exec_execute_straight he hs rfl
  case store =>
    refine ⟨s.memory.write a.toNat (s.readReg r1), ?_, ?_, fun b hb => Memory.read_write_of_ne _ hb _⟩
    · rw [exec_memory_movm hm hs, State.memStore_eq_next.2 ⟨a, ha, inBounds_iff.2 hlt, rfl⟩, State.passToWb, ha]
    · rw [Memory.read_write hwf, if_pos rfl]
  case fault =>
    rw [exec_memory_movm hm hs, State.memStore_of_outOfBounds ha hge, State.raiseMem, hi]
    rfl

end

/-! ## Branches (43_control_transfer.md R190 to R199) -/

namespace Sys2Proof.Machine

variable {i : Instr} {s : State} {e : ExLatch} {a : Word}

/-! ### A branch in Execute (R190, R193, R196) -/

/-- Whatever the PC holds, a taken branch in Execute finishes with its own target. -/
theorem exec_execute_of_takesBranch (ha : s.acting = .execute) (he : s.exLatch = some e)
    (hbr : s.TakesBranch i e.ia a) : exec i s = s.finishTaken e a := by
  rcases hbr with ⟨r1, r2, imm, rfl, hreg, rfl⟩ | ⟨target, rfl, rfl⟩
  · rw [exec, execJeq, State.inStage_execute ha he, if_pos hreg]
  · rw [exec, execJmp, State.inStage_execute ha he]

theorem State.finishTaken_of_outOfBounds (ha : 2048 ≤ a.toNat) : s.finishTaken e a = s.raisePc e a := by
  simp only [State.finishTaken, inBounds_eq_false_iff.2 ha, Bool.false_eq_true, if_false]

/-- A branch taken to an address below 2048 redirects, flushes and suppresses, and moves to MEM (R115, R116). -/
theorem exec_execute_taken_inBounds (ha : s.acting = .execute) (he : s.exLatch = some e)
    (hbr : s.TakesBranch i e.ia a) (hlt : a.toNat < 2048) : exec i s = .next ((s.redirect a).passToMem e none) := by
  rw [exec_execute_of_takesBranch ha he hbr, State.finishTaken_eq_next]
  exact ⟨inBounds_iff.2 hlt, rfl⟩

/-- A branch taken to 2048 or more faults, and the record names its opcode, target and word (R203). -/
theorem exec_execute_taken_outOfBounds (ha : s.acting = .execute) (he : s.exLatch = some e)
    (hbr : s.TakesBranch i e.ia a) (hins : e.ins = i) (hge : 2048 ≤ a.toNat) :
    exec i s = .fault (.raised (.pcOutOfBounds s.cycle i.opcode a e.ia e.word)) := by
  rw [exec_execute_of_takesBranch ha he hbr, State.finishTaken_of_outOfBounds hge, State.raisePc, hins]

/-! ### A branch after Execute (R105, R106, R112) -/

/-- The instructions without an ALU result are the branches: MEM and WB treat them alike. -/
theorem branchTail_of_carriesAlu (h : carriesAlu i = false) : BranchTail i := by
  refine fun s => ⟨fun m ha hm => ?memory, fun b ha hb => ?writeBack⟩
  case memory => rw [exec_memory_pass hm ha (accessesMemory_of_carriesAlu h), State.memPass, State.passToWb]
  case writeBack => rw [exec_writeBack ha hb, wbAction_of_branch h, State.writeBackAction, State.wbNone, State.retire]

end Sys2Proof.Machine

/-! ## The statements of the branches (43_control_transfer.md) -/

section
open Sys2Proof Sys2Proof.Machine

/-- Settles O16: with unequal registers there is no target and EX goes straight on; with equal ones the branch is taken
to the JEQ's own address + 1 + imm, or faults there. -/
theorem jeqBranchesWhenEqual : Obligations.JeqBranchesWhenEqual := by
  refine fun r1 r2 field => ⟨decode_append4_of_encode rfl rfl rfl, fun s e ha he => ?execute,
    branchTail_of_carriesAlu rfl⟩
  have taken (heq : s.readReg r1 = s.readReg r2) :
      s.TakesBranch (.jeq r1 r2 (field.signExtend 32)) e.ia (e.ia + 1 + field.signExtend 32) :=
    .inl ⟨r1, r2, _, rfl, beq_iff_eq.2 heq, rfl⟩
  exact ⟨fun hne => exec_execute_straight he ha (if_neg hne),
    fun heq hlt => exec_execute_taken_inBounds ha he (taken heq) hlt,
    fun heq hins hge => exec_execute_taken_outOfBounds ha he (taken heq) hins hge⟩

/-- Settles O17: a JMP is always taken, to its target under the high 4 bits of the PC, or faults there. -/
theorem jmpReplacesTheLowPcBits : Obligations.JmpReplacesTheLowPcBits := by
  refine fun target => ⟨decode_eq_ok_iff.2 ⟨rfl, BitVec.and_allOnes.symm⟩, fun s e ha he => ?execute,
    branchTail_of_carriesAlu rfl⟩
  have taken : s.TakesBranch (.jmp target) e.ia (s.pc.extractLsb' 28 4 ++ target) := .inr ⟨target, rfl, rfl⟩
  exact ⟨fun hlt => exec_execute_taken_inBounds ha he taken hlt,
    fun hins hge => exec_execute_taken_outOfBounds ha he taken hins hge⟩

end

/-! ## The cycles of a fault (60_exceptions.md R200 to R206) -/

namespace Sys2Proof.Machine

variable {i : Instr} {s t : State} {e : ExLatch} {a : Word}

/-- A running state whose cycle faults goes to the faulted state of R204. -/
theorem step_of_fault {r : FaultRecord} (hrun : s.status = .running) (h : runCycle s = .fault (.raised r)) :
    step s = .next (s.enterFault r) :=
  step_eq_next.2 ⟨hrun, .inr ⟨r, h, rfl⟩⟩

/-- A cycle that neither faults nor drains the pipeline ends running (R130). -/
theorem CycleEffect.running (effect : CycleEffect s t) (hrun : s.status = .running) (hnot : ¬t.drained) :
    t.status = .running := by
  rcases effect.status with ⟨hst, -⟩ | ⟨-, hdrained⟩
  · exact hst.trans hrun
  · exact absurd hdrained hnot

/-! ### The cycle from Execute on -/

/-- The stages of a cycle after the Execute stage, in the order of R100. -/
def afterExecute (s : State) : Out :=
  andThen (decodeStage s) fun s4 => .next (drainCheck (transferStage (fetchStage s4)))

/-- The stages after the Memory stage. -/
def afterMemory (s : State) : Out := andThen (executeStage s) afterExecute

/-- Write-back answers while the latches carry their fields, and an empty MEM raises nothing, so Execute and Decode
alone decide whether the cycle faults. -/
theorem runCycle_eq_afterMemory (hs : s.LatchOk) (hm : s.memLatch = none) :
    ∃ s2, runCycle s = afterMemory s2 ∧ BackEffect s s2 ∧ s2.memory = s.memory := by
  obtain ⟨-, -, hwb⟩ := hs
  obtain ⟨s1, h1⟩ := writeBackStage_answers (s := s.beginCycle) fun b hb => (hwb b hb).2
  have hs1 := writeBackStage_next_eq h1
  have h2 := memoryStage_of_none (s := s1) (by rw [hs1]; exact hm)
  refine ⟨_, ?_, backEffect_of_stages h1 h2, by rw [hs1]; rfl⟩
  rw [runCycle, h1, andThen_next, h2, andThen_next]
  rfl

section
variable (he : s.exLatch = some e) (hcnt : e.ecnt = 1)
include he hcnt

/-- At its last cycle in EX an instruction with no branch to take moves to MEM. -/
theorem executeStage_straight (hnone : branchTarget e.ins (s.archAt e.ia) = none) :
    executeStage s = .next ((s.actAt .execute).passToMem e (aluResult e.ins (s.archAt e.ia))) := by
  rw [executeStage_of_one he hcnt]
  exact exec_execute_straight (e := { e with ecnt := countDown e.ecnt }) rfl rfl hnone

/-- And a branch taken out of bounds faults there. -/
theorem executeStage_branch_outOfBounds (hpc : s.pc.toNat ≤ Config.memWords)
    (hx : branchTarget e.ins (s.archAt e.ia) = some a) (ha : 2048 ≤ a.toNat) :
    executeStage s = s.raisePc e a := by
  rw [executeStage_of_one he hcnt,
    exec_execute_taken (s := (s.countExecute e).actAt .execute) rfl rfl hpc hx, State.finishTaken_of_outOfBounds ha]
  rfl

end

section
variable (hs : s.Inv) (he : s.exLatch = some e) (hcnt : e.ecnt = 1)
include hs he hcnt

/-- MEM is empty in the cycle that completes Execute, and the instruction sees the settled registers. -/
theorem State.Inv.afterMemory_of_last :
    ∃ s2, runCycle s = afterMemory s2 ∧ BackEffect s s2 ∧ s2.archAt e.ia = s.archView e.ia := by
  obtain ⟨hmem, -⟩ := hs.oddOk (hs.odd_of_last he hcnt)
  obtain ⟨-, hlatch, -⟩ := hs
  obtain ⟨s2, hcycle, back, hmemory⟩ := runCycle_eq_afterMemory hlatch hmem
  exact ⟨s2, hcycle, back, State.archAt_eq_archView back.regs hmemory⟩

/-! ### A branch that completes Execute (R203) -/

/-- A branch taken out of bounds faults before Decode looks at ID. -/
theorem State.Inv.step_of_branch_outOfBounds (hrun : s.status = .running)
    (hx : branchTarget e.ins (s.archView e.ia) = some a) (ha : 2048 ≤ a.toNat) :
    step s = .next (s.enterFault (.pcOutOfBounds (s.cycle + 1) e.ins.opcode a e.ia e.word)) := by
  obtain ⟨s2, hcycle, back, hview⟩ := hs.afterMemory_of_last he hcnt
  obtain ⟨⟨-, -, hpc⟩, -⟩ := hs
  have hexec := executeStage_branch_outOfBounds (back.exLatch.trans he) hcnt (by rwa [back.pc]) (by rwa [hview]) ha
  refine step_of_fault hrun ?_
  rw [hcycle, afterMemory, hexec, State.raisePc, back.cycle]
  rfl

/-! ### An instruction that goes straight on from Execute (R108, R202) -/

/-- The instruction leaves EX to Decode, which sees the ID of the cycle's start. -/
theorem State.Inv.decode_of_straight (hnone : branchTarget e.ins (s.archView e.ia) = none) :
    ∃ s3, runCycle s = afterExecute s3 ∧ s3.idLatch = s.idLatch ∧ s3.exLatch = none ∧ s3.cycle = s.cycle + 1 := by
  obtain ⟨s2, hcycle, back, hview⟩ := hs.afterMemory_of_last he hcnt
  have hexec := executeStage_straight (back.exLatch.trans he) hcnt (by rwa [hview])
  rw [afterMemory, hexec, andThen_next] at hcycle
  exact ⟨_, hcycle, back.idLatch, rfl, back.cycle⟩

/-- A word that is no instruction faults in Decode in the cycle in which the instruction before it leaves EX. -/
theorem State.Inv.step_of_invalid_word {d : IdLatch} (hrun : s.status = .running)
    (hnone : branchTarget e.ins (s.archView e.ia) = none) (hd : s.idLatch = some d)
    (hop : 12 ≤ (fieldOp d.word).toNat) :
    step s = .next (s.enterFault (.invalidOpcode (s.cycle + 1) (fieldOp d.word) d.word d.ia)) := by
  obtain ⟨s3, hcycle, hid, hex, hcy⟩ := hs.decode_of_straight he hcnt hnone
  obtain ⟨-, hlast, -⟩ := hs.oddOk (hs.odd_of_last he hcnt)
  have hdcnt : d.dcnt ≠ 2 := by rw [hlast d hd]; decide
  refine step_of_fault hrun ?_
  rw [hcycle, afterExecute, decodeStage_of_error (hid.trans hd) hdcnt hex (decode_eq_error hop), State.raiseOpcode, hcy]
  rfl

/-- With a word in ID that decodes, or none, that cycle does not fault. -/
theorem State.Inv.exists_runCycle_of_straight (hnone : branchTarget e.ins (s.archView e.ia) = none)
    (hop : ∀ d ∈ s.idLatch, (fieldOp d.word).toNat ≤ 11) : ∃ t, runCycle s = .next t := by
  obtain ⟨s3, hcycle, hid, -⟩ := hs.decode_of_straight he hcnt hnone
  obtain ⟨s4, h4⟩ := decodeStage_of_calm (s := s3) fun d hd => .inr (exists_decode_eq_ok (hop d (hid ▸ hd)))
  rw [afterExecute, h4, andThen_next] at hcycle
  exact ⟨_, hcycle⟩

end

/-! ### A load or a store in MEM (R201) -/

/-- Only JEQ and JMP have a branch target. -/
theorem branchTarget_of_accessesMemory (h : accessesMemory i = true) (v : ArchState) : branchTarget i v = none := by
  cases i
  case movr | movm => rfl
  all_goals cases h

/-- A load and a store out of bounds fault alike. -/
theorem memoryStage_of_outOfBounds {m : MemLatch} (hm : s.memLatch = some m) (hi : accessesMemory m.ins = true)
    (ha : m.alu = some a) (hge : 2048 ≤ a.toNat) : memoryStage s = (s.actAt .memory).raiseMem m a := by
  simp only [memoryStage, hm]
  cases hins : m.ins
  case movr r1 r2 imm =>
    rw [exec_memory_movr (s := s.actAt .memory) hm rfl, State.memLoad_of_outOfBounds ha hge]
  case movm r1 r2 imm =>
    rw [exec_memory_movm (s := s.actAt .memory) hm rfl, State.memStore_of_outOfBounds ha hge]
  all_goals
    rw [hins] at hi
    cases hi

/-- The Memory stage comes before Execute and Decode, so an access out of bounds in MEM is the fault of its cycle. -/
theorem step_of_memory_outOfBounds {m : MemLatch} (hrun : s.status = .running) (hs : s.LatchOk)
    (hm : s.memLatch = some m) (hi : accessesMemory m.ins = true) (ha : m.alu = some a) (hge : 2048 ≤ a.toNat) :
    step s = .next (s.enterFault (.memOutOfBounds (s.cycle + 1) m.ins.opcode a m.ia m.word)) := by
  obtain ⟨-, -, hwb⟩ := hs
  obtain ⟨s1, h1⟩ := writeBackStage_answers (s := s.beginCycle) fun b hb => (hwb b hb).2
  have hs1 := writeBackStage_next_eq h1
  refine step_of_fault hrun ?_
  rw [runCycle, h1, andThen_next, memoryStage_of_outOfBounds (by rw [hs1]; exact hm) hi ha hge, hs1]
  rfl

/-- A load or a store whose address is out of bounds completes Execute and faults in the next cycle, where the word
behind it does not fault first. -/
theorem State.Inv.steps_of_memory_outOfBounds (hs : s.Inv) (hrun : s.status = .running) (he : s.exLatch = some e)
    (hcnt : e.ecnt = 1) (hi : accessesMemory e.ins = true) (ha : aluResult e.ins (s.archView e.ia) = some a)
    (hge : 2048 ≤ a.toNat) (hop : ∀ d ∈ s.idLatch, (fieldOp d.word).toNat ≤ 11) :
    ∃ t, step s = .next t ∧ t.status = .running ∧
      step t = .next (t.enterFault (.memOutOfBounds (s.cycle + 2) e.ins.opcode a e.ia e.word)) := by
  obtain ⟨t, hcycle⟩ := hs.exists_runCycle_of_straight he hcnt (branchTarget_of_accessesMemory hi _) hop
  have hstep := step_eq_next.2 ⟨hrun, .inl hcycle⟩
  have effect := cycleEffect_of_runCycle hcycle
  have hmem := (hs.completingCycle he hcnt hstep (effect.notFaulted hrun)).memLatch
  have hrunT : t.status = .running :=
    effect.running hrun fun ⟨_, _, _, hnone, _⟩ => by cases hmem.symm.trans hnone
  obtain ⟨-, hlatch, -⟩ := hs.of_step hstep
  have hfault := step_of_memory_outOfBounds hrunT hlatch hmem hi ha hge
  rw [effect.cycle] at hfault
  exact ⟨t, hstep, hrunT, hfault⟩

end Sys2Proof.Machine

/-! ## The statements of the faults (60_exceptions.md R200 to R206) -/

section
open Sys2Proof Sys2Proof.Machine

/-- Settles O39: a branch faults in Execute, before Decode, and the word in ID in Decode, in the cycle before the one in
which a load or store is in MEM. -/
theorem faultsAreReportedInCycleOrder : Obligations.FaultsAreReportedInCycleOrder := by
  refine fun s e hs hrun he hcnt => ⟨fun r1 r2 imm hi heq hge => ?jeq, fun target hi hge => ?jmp,
    fun r1 r2 imm hi hge => ?access⟩
  case jeq =>
    have hx : branchTarget e.ins (s.archView e.ia) = some (e.ia + 1 + imm) := by rw [hi]; exact if_pos heq
    rw [hs.step_of_branch_outOfBounds he hcnt hrun hx hge, hi]
    rfl
  case jmp =>
    have hx : branchTarget e.ins (s.archView e.ia) = some (target.setWidth 32) := by rw [hi]; rfl
    have hge : 2048 ≤ (target.setWidth 32).toNat := by rwa [BitVec.toNat_setWidth_of_le (by decide)]
    rw [hs.step_of_branch_outOfBounds he hcnt hrun hx hge, hi]
    rfl
  case access =>
    have hmem : accessesMemory e.ins = true := by rcases hi with hi | hi <;> rw [hi] <;> rfl
    have halu : aluResult e.ins (s.archView e.ia) = some ((s.archView e.ia).readReg r2 + imm) := by
      rcases hi with hi | hi <;> rw [hi] <;> rfl
    exact ⟨fun d hd hop =>
        hs.step_of_invalid_word he hcnt hrun (branchTarget_of_accessesMemory hmem _) hd hop,
      hs.steps_of_memory_outOfBounds hrun he hcnt hmem halu hge⟩

/-- Settles O34: a cycle that does not fault does not end faulted, and the record of one that does names its cycle
(`runCycle_fault`). -/
theorem faultingCycleCommitsNothing : Obligations.FaultingCycleCommitsNothing := by
  intro s t r h hst
  obtain ⟨hrun, hcycle | ⟨q, hfault, rfl⟩⟩ := step_eq_next.1 h
  · have hok := (cycleEffect_of_runCycle hcycle).notFaulted hrun
    rw [State.notFaulted, hst] at hok
    cases hok
  · cases hst
    obtain ⟨_, ⟨⟩, hcy⟩ := runCycle_fault hfault
    exact ⟨rfl, hcy⟩

/-- Settles O38, by the constructor of each record. -/
theorem faultCodesAndStages : Obligations.FaultCodesAndStages :=
  fun _ _ _ _ _ => ⟨⟨rfl, rfl⟩, ⟨rfl, rfl⟩, rfl, rfl⟩

end

/-! ## What the host sets and sees (60_exceptions.md R216, R217; 70_reset_and_hazards.md R233) -/

namespace Sys2Proof.Machine

variable {s t : State}

theorem State.preloadReg_of_begun (hc : s.cycle ≠ 0) (r : RegIdx) (v : Word) :
    s.preloadReg r v = .error .runBegun :=
  if_pos hc

theorem State.preloadWord_of_begun (hc : s.cycle ≠ 0) (k : Nat) (v : Word) :
    s.preloadWord k v = .error .runBegun :=
  if_pos hc

theorem State.preloadReg_zero (hc : s.cycle = 0) (v : Word) : s.preloadReg 0 v = .error .notPreloadable := by
  rw [State.preloadReg, if_neg (not_not.2 hc), if_pos rfl]

/-- Before cycle 1 an address below `icount`, or of no memory word, is refused. -/
theorem State.preloadWord_outside {k : Nat} (hc : s.cycle = 0) (hk : k < s.icount.val ∨ 2048 ≤ k) (v : Word) :
    s.preloadWord k v = .error .notPreloadable := by
  have hout : ¬(s.icount.val ≤ k ∧ k < Config.memWords) := fun ⟨hlow, hhigh⟩ =>
    hk.elim hlow.not_gt hhigh.not_ge
  rw [State.preloadWord, if_neg (not_not.2 hc), if_neg hout]

/-- Where register 0 holds 0, every register reads what its place holds (R21). -/
theorem State.readReg_eq_get (h0 : s.regs.get 0 = 0) (r : RegIdx) : s.readReg r = s.regs.get r := by
  unfold State.readReg
  split
  · next hr => rw [hr, h0]
  · rfl

/-- Then the registers observed are the whole register file. -/
theorem State.regs_eq_of_observe (hs : s.regs.get 0 = 0) (ht : t.regs.get 0 = 0)
    (h : s.observe.registers = t.observe.registers) : s.regs = t.regs := by
  have hread : ∀ r, s.readReg r = t.readReg r := fun r => List.map_inj_left.1 h r (List.mem_finRange r)
  refine Vector.ext fun k hk => ?_
  have hget := hread ⟨k, hk⟩
  rwa [State.readReg_eq_get hs, State.readReg_eq_get ht] at hget

end Sys2Proof.Machine

/-! ## The statements of the host's side (60_exceptions.md R216, R217) -/

section
open Sys2Proof Sys2Proof.Machine

/-- Settles O53: an accepted preload is one write, and the others fail the test of the cycle or of the place. -/
theorem preloadSetsOnlyItsPlace : Obligations.PreloadSetsOnlyItsPlace := by
  refine ⟨fun s r v hc hr => ?_, fun s k v hc hlow hhigh hwf => ?_, fun s r k v =>
    ⟨fun hc => ⟨s.preloadReg_of_begun hc r v, s.preloadWord_of_begun hc k v⟩, fun hc => s.preloadReg_zero hc v,
      fun hc hk => s.preloadWord_outside hc hk v⟩⟩
  · rw [State.preloadReg_eq_ok.2 ⟨hc, hr, rfl⟩, State.writeReg_eq, if_neg hr]
  · exact ⟨s.memory.write k v, State.preloadWord_eq_ok.2 ⟨hc, ⟨hlow, hhigh⟩, rfl⟩,
      fun b => Memory.read_write hwf k b v⟩

/-- Settles O58: each field observed is the state's own, and the registers read are those stored
(`State.regs_eq_of_observe`). -/
theorem observationShowsTheWholeState : Obligations.ObservationShowsTheWholeState := by
  refine ⟨fun s t hs ht h => ?_, fun s stage => rfl, fun s r => ?_, fun s k => rfl⟩
  · have hregs := State.regs_eq_of_observe hs ht (congrArg Snapshot.registers h)
    cases s
    cases t
    simp only [State.observe, Snapshot.mk.injEq] at h
    obtain ⟨rfl, rfl, rfl, rfl, rfl, rfl, rfl, rfl, rfl, rfl, -, rfl⟩ := h
    cases hregs
    rfl
  · simp [State.observe]

end

/-! ## The invariant before cycle 1: the program load and the preload (70_reset_and_hazards.md R230 to R233) -/

namespace Sys2Proof.Machine

variable {s : State}

/-- A register write leaves the place of register 0 as it is (R22). -/
theorem State.writeReg_get_zero (s : State) (r : RegIdx) (v : Word) : (s.writeReg r v).regs.get 0 = s.regs.get 0 := by
  rw [State.writeReg_regs]
  split
  · rfl
  · next hr =>
    have hne : r.val ≠ 0 := fun h0 => hr (Fin.ext h0)
    rw [Vector.get_eq_getElem, Vector.get_eq_getElem]
    exact Vector.getElem_set_ne r.isLt (Nat.zero_lt_succ 31) hne

/-- The reset state with a canonical memory and a program of any length: the latches are empty and no cycle has begun
(R231, R232). -/
theorem State.reset_inv_of_program {m : Memory} (hm : m.wf) (n : Fin (Config.memWords + 1)) :
    ({ State.reset with memory := m, icount := n } : State).Inv := by
  obtain ⟨⟨hzero, -, hpc⟩, hlatch, -⟩ := resetSatisfiesTheInvariant
  exact ⟨⟨hzero, hm, hpc⟩, hlatch, ⟨rfl, rfl, nofun, nofun, .inl rfl, .inl rfl⟩,
    ⟨nofun, nofun, nofun, nofun, nofun, nofun⟩, nofun, nofun⟩

/-- Only `State.ArchOk` speaks of the registers, and only of register 0, so a register write keeps the invariant. -/
theorem State.Inv.writeReg (hs : s.Inv) (r : RegIdx) (v : Word) : (s.writeReg r v).Inv := by
  obtain ⟨⟨hzero, hwf, hpc⟩, hlatch, htiming, horder, hstatus⟩ := hs
  have hzeroT := (s.writeReg_get_zero r v).trans hzero
  rw [State.writeReg_eq] at hzeroT ⊢
  exact ⟨⟨hzeroT, hwf, hpc⟩, hlatch, htiming, horder, hstatus⟩

/-- Only `State.ArchOk` speaks of the memory, so a write in bounds keeps the invariant. -/
theorem State.Inv.writeMemory (hs : s.Inv) {a : Nat} (ha : a < Config.memWords) (v : Word) :
    ({ s with memory := s.memory.write a v } : State).Inv := by
  obtain ⟨⟨hzero, hwf, hpc⟩, hlatch, htiming, horder, hstatus⟩ := hs
  exact ⟨⟨hzero, Memory.write_wf v hwf ha, hpc⟩, hlatch, htiming, horder, hstatus⟩

end Sys2Proof.Machine

section
open Sys2Proof Sys2Proof.Machine

/-- Settles O42: the load writes a canonical memory into the reset state, and an accepted preload is one write of a
register or of a word in bounds. -/
theorem loadedProgramsSatisfyTheInvariant : Obligations.LoadedProgramsSatisfyTheInvariant := by
  refine ⟨fun image s h => ?load, fun s t r v hs h => ?register, fun s t a v hs h => ?word⟩
  case load =>
    obtain ⟨hlen, rfl⟩ := State.loadImage_eq_ok.1 h
    exact State.reset_inv_of_program (Memory.writeFrom_wf image Memory.wf_nil (by rwa [Nat.zero_add])) _
  case register =>
    obtain ⟨-, -, rfl⟩ := State.preloadReg_eq_ok.1 h
    exact hs.writeReg r v
  case word =>
    obtain ⟨-, ⟨-, hbound⟩, rfl⟩ := State.preloadWord_eq_ok.1 h
    exact hs.writeMemory hbound v

end
